-- ==== Sys2Proof/Word.lean ====
section
/-! DEFINITION. The word and byte types of FDTR (spec/00_scope.md R10): every register, counter and buffer cell is an
unsigned number of a stated width, bit 0 the least significant. -/

namespace Sys2Proof

/-- A 32-bit word of the host register space (R61), a timer or a binary32 pattern. -/
abbrev Word := BitVec 32

/-- A byte: 8 bits (R10). -/
abbrev Byte := BitVec 8

/-- One flag as a one-bit vector, for the register views (R39). -/
def bit (b : Bool) : BitVec 1 := if b then 1#1 else 0#1

end Sys2Proof
end

