-- ==== Sys2Proof/Config.lean ====
section
/-! DEFINITION. What is fixed for one FDTR (the parameters of spec/00_scope.md R5), the vector of inputs the environment
chooses at every step (spec/10_state.md R44 to R48), and the free value: an input vector nobody scripted
(spec/93_implementation_defined.md U4, U5). -/

namespace Sys2Proof

/-! ### The fixed lengths of the protocol (R5, rows marked fixed) -/

/-- Bytes read for one reply frame (R5). -/
def Config.frameLen : Nat := 47
/-- Bytes discarded after unstuffing (R5). -/
def Config.hdrLen : Nat := 5
/-- Fields of a reading (R5). -/
def Config.nField : Nat := 10
/-- Least payload length that decodes, `4 * NFIELD` (R5). -/
def Config.payloadMin : Nat := 40
/-- Length of the start command frame (R5). -/
def Config.startLen : Nat := 8
/-- Length of the request-data command frame (R5). -/
def Config.reqLen : Nat := 6

/-! ### Inputs -/

/-- The RX condition on input `rx_st` (R45, R104): 0 `NONE`, 1 `BYTE`, 2 `EOS`, 3 `ERR`. -/
inductive RxSt where
  | none
  | byte
  | eos
  | err
deriving DecidableEq, Repr, Inhabited

/-- The inputs sampled at one step (R7, R44 to R48). -/
structure Inputs where
  /-- synchronous, active-high reset (R44) -/
  rst : Bool := false
  /-- a host access is requested this step (R44) -/
  hSel : Bool := false
  /-- 1 write, 0 read (R44) -/
  hWe : Bool := false
  /-- the word index of the access (R44) -/
  hWidx : BitVec 8 := 0
  /-- the word a host write carries (R44) -/
  hWdata : Word := 0
  /-- the RX condition of this step (R45) -/
  rxSt : RxSt := .none
  /-- the received byte, read only when `rxSt` is `byte` (R45) -/
  rxData : Byte := 0
  /-- the TX adapter accepts the presented byte (R46) -/
  txReady : Bool := false
  /-- the write failed (R46) -/
  txErr : Bool := false
  /-- one unit `TICK` of time has passed (R47) -/
  tick : Bool := false
  /-- the sink took the reading (R48) -/
  snkOk : Bool := false
  /-- the sink failed (R48) -/
  snkFail : Bool := false
deriving DecidableEq, Repr, Inhabited

/-! ### Parameters -/

/-- Which function `ROUND2` is (R5, decision D4, U1), as plain data. Every function that R135 allows is one of these
(`exists_given` in Laws/Codec.lean), and each of these meets R135 (`round2_roundsToHundredth`). Assumption log 2. -/
inductive Config.Rounding where
  /-- the default definition of R136: halves away from zero -/
  | halfAway
  /-- the other tie rule R135 (c) names: halves to the even number of hundredths -/
  | halfEven
  /-- a given function, by its graph: the pairs of a pattern and what it rounds to. A pair that R135 does not allow has no
  effect, and a pattern without a pair rounds by R136. -/
  | given (graph : List (Word × Word))
deriving DecidableEq, Repr

/-- The parameters of one FDTR (R5, 92_eei_decisions.md, table of open parameters). They are plain data held in `State`
and changed by no step, so a statement about every state holds for every value of them. The constraints of R5
(C11: `47 <= RAW_CAP <= 64`; `T_PERIOD >= 1`; each time fits 32 bits) are part of the type: a machine that breaks them is
not defined by the spec (U9) and does not exist here. -/
structure Config.Params where
  /-- `RAW_CAP`, the capacity in bytes of each of the two buffers -/
  rawCap : Nat
  /-- `TICK`, the nominal time between two pulses of `tick`, in microseconds; informative: no rule reads it (D3) -/
  tickMicros : Nat
  /-- `T_DEADLINE`, the reset value of `DEADLINE`, in ticks -/
  tDeadline : Word
  /-- `T_PERIOD`, the sampling period, in ticks -/
  tPeriod : Word
  /-- `T_SETTLE`, the settle time after the start command, in ticks -/
  tSettle : Word
  /-- `T_COOLDOWN`, the wait after a cycle with no reading, in ticks -/
  tCooldown : Word
  /-- `ROUND2` -/
  rounding : Config.Rounding
  rawCap_ge : 47 ≤ rawCap := by decide
  rawCap_le : rawCap ≤ 64 := by decide
  tPeriod_pos : 1 ≤ tPeriod.toNat := by decide
deriving DecidableEq, Repr

/-- The defaults of R5. -/
def Config.defaults : Config.Params :=
  { rawCap := 64, tickMicros := 1000, tDeadline := 10000, tPeriod := 5000, tSettle := 5000, tCooldown := 1000,
    rounding := .halfAway }

/-! ### Free value (no body: nothing can evaluate it) -/

/-- The input vector of the `k`-th step that finds no scripted input: any value (R8; U4 and U5 of
93_implementation_defined.md). Assumption log 1. -/
opaque Config.freeInputs : Nat → Inputs

end Sys2Proof
end

