-- ==== Sys2Proof/Syntax.lean ====
section
/-! DEFINITION. The nine operations of FDTR, one constructor per row of spec/opcode_table.json
(spec/30_encoding.md R92). -/

namespace Sys2Proof

/-- An operation a host starts by writing its command word to register `CMD` (R90, R92). Only `READX` and `DECODE` have an
operand, the unsigned byte `n` (R91). -/
inductive Instr where
  /-- `TXSTART`: transmit the start command once (R122) -/
  | txstart
  /-- `TXREQ`: transmit the request-data command once (R123) -/
  | txreq
  /-- `DRAIN`: discard received bytes until none is presented (R167) -/
  | drain
  /-- `READX n`: read exactly `n` bytes under the deadline (R161) -/
  | readx (n : Byte)
  /-- `UNSTUFF`: unstuff the valid part of `RAW` into `UNS` (R129) -/
  | unstuff
  /-- `DECODE n`: decode `UNS[n..UNSCNT)` into the reading (R138) -/
  | decode (n : Byte)
  /-- `SAMPLE`: one sample cycle (R181) -/
  | sample
  /-- `RUN`: the sampling loop (R201) -/
  | run
  /-- `STOP`: the external shutdown signal (R211) -/
  | stop
deriving DecidableEq, Repr

end Sys2Proof
end

