-- ==== Sys2Proof/WellFormed.lean ====
section
/-! DEFINITION. Which operations have a well-formed command word (spec/30_encoding.md R93). The operand's width and the
zero operand of the other seven operations are already in the type `Instr`; the one check left is the length of `READX`. -/

namespace Sys2Proof

/-- `READX n` needs `n <= RAW_CAP` (R91, R93); every other operation is well formed. -/
def Instr.wellFormed (cap : Nat) : Instr → Bool
  | .readx n => decide (n.toNat ≤ cap)
  | .txstart | .txreq | .drain | .unstuff | .decode _ | .sample | .run | .stop => true

end Sys2Proof
end

