-- ==== Sys2Proof/Decode.lean ====
section
/-! DEFINITION. The command word (spec/30_encoding.md R90 to R94): the decoder, total on every 32-bit word and rejecting by
name, and after it the encoder, both written from the format `C` and the opcode map of R92. -/

namespace Sys2Proof

/-- Why a word is reserved (R94). -/
inductive Reserved where
  /-- a non-zero bit in [7:4] or [31:16] -/
  | zeroBits
  /-- opcode 0 or 0xA to 0xF -/
  | opcode
  /-- a non-zero `n` on an operation without an operand -/
  | strayOperand
  /-- `READX` with `n > RAW_CAP` -/
  | lengthAboveCap
deriving DecidableEq, Repr

/-! ### The fields of format C (R90) -/

/-- bits [3:0], the opcode -/
def opField (w : Word) : BitVec 4 := w.extractLsb' 0 4
/-- bits [7:4], zero -/
def lowZeros (w : Word) : BitVec 4 := w.extractLsb' 4 4
/-- bits [15:8], the operand -/
def nField (w : Word) : Byte := w.extractLsb' 8 8
/-- bits [31:16], zero -/
def highZeros (w : Word) : BitVec 16 := w.extractLsb' 16 16

/-- An operation without operand: `n` must be 0 (R91, R93). -/
def noOperand (n : Byte) (i : Instr) : Except Reserved Instr :=
  if n = 0#8 then .ok i else .error .strayOperand

/-- The operation a command word stands for when `RAW_CAP` is `cap`, or why it is reserved (R92 to R94). -/
def decode (cap : Nat) (w : Word) : Except Reserved Instr :=
  if lowZeros w = 0#4 ∧ highZeros w = 0#16 then
    if opField w = 1#4 then noOperand (nField w) .txstart
    else if opField w = 2#4 then noOperand (nField w) .txreq
    else if opField w = 3#4 then noOperand (nField w) .drain
    else if opField w = 4#4 then
      if (nField w).toNat ≤ cap then .ok (.readx (nField w)) else .error .lengthAboveCap
    else if opField w = 5#4 then noOperand (nField w) .unstuff
    else if opField w = 6#4 then .ok (.decode (nField w))
    else if opField w = 7#4 then noOperand (nField w) .sample
    else if opField w = 8#4 then noOperand (nField w) .run
    else if opField w = 9#4 then noOperand (nField w) .stop
    else .error .opcode
  else .error .zeroBits

/-- Format `C` (R90): `op` in [3:0], zero in [7:4], `n` in [15:8], zero in [31:16]. -/
def formatC (op : BitVec 4) (n : Byte) : Word := 0#16 ++ n ++ 0#4 ++ op

/-- The command word of an operation (R92, R106). -/
def encode : Instr → Word
  | .txstart  => formatC 1 0
  | .txreq    => formatC 2 0
  | .drain    => formatC 3 0
  | .readx n  => formatC 4 n
  | .unstuff  => formatC 5 0
  | .decode n => formatC 6 n
  | .sample   => formatC 7 0
  | .run      => formatC 8 0
  | .stop     => formatC 9 0

/-- The command word whose bits are `w`, when the table gives the row `nbits` bits; every bit above `nbits` is 0. -/
def tableWord (nbits w : Nat) : Word := BitVec.ofNat 32 (w % 2 ^ nbits)

/-- The operation the decoder reads from a row's word, at the default parameters (R5). A command is one 32-bit word (R90):
bits beyond it belong to no command. -/
def decodeTableWord (nbits w : Nat) : Option Instr :=
  if w % 2 ^ nbits < 2 ^ 32 then (decode Config.defaults.rawCap (tableWord nbits w)).toOption else none

end Sys2Proof
end

