-- ==== Sys2Proof/Machine/State.lean ====
section
/-! DEFINITION. The whole state of FDTR as plain data (spec/10_state.md R20 and its table), the reasons a step can stop, and
the state after reset (spec/70_reset_and_hazards.md R270). Beside the spec's 22 elements, State holds the parameters of the
machine (R5, never written by a step) and the model's own input script (R8). -/

namespace Sys2Proof.Machine

/-- The twelve states of the state machine, FDTR's program counter (R21). Codes 12 to 15 are never taken. -/
inductive Fsm where
  | idle | txs | txr | drn | rdx | dec | settle | waitp | fwd | cool | live | exited
deriving DecidableEq, Repr

/-- The operation in progress (R22): 0 none, 1 to 8 the opcodes but `STOP`, which is never in progress. -/
inductive Operation where
  | none | txstart | txreq | drain | readx | unstuff | decode | sample | run
deriving DecidableEq, Repr

/-- `RESULT.KIND` (R234, R103). -/
inductive Kind where
  | none | ok | reading | nodata | error
deriving DecidableEq, Repr

/-- The error codes 0 to 10 (R230); 11 to 31 never occur (R103). -/
inductive ErrCode where
  | none | configMissing | transportOpenFailed | sensorStartFailed | requestFailed | timeout | shortFrame
  | malformedPayload | ioError | streamClosed | forwardFailed
deriving DecidableEq, Repr

/-- `RESULT` (R35): KIND, ERR, COUNT. -/
structure ResultReg where
  kind : Kind
  err : ErrCode
  count : Byte
deriving DecidableEq, Repr

/-- `ERRINFO` (R36): CODE, COUNT. -/
structure ErrInfoReg where
  code : ErrCode
  count : Byte
deriving DecidableEq, Repr

/-- `EV` (R37): the register behind the event port. -/
structure EvReg where
  valid : Bool
  code : ErrCode
  count : Byte
deriving DecidableEq, Repr

/-- The byte cells of the buffers: `RAW[i]` under the address `0x40 + i`, `UNS[i]` under `0x80 + i`, the host word indices of
R41 and R65. Canonical form: addresses strictly rising, and no entry equal to 0x00, which an unlisted address reads as (the
reset contents of R270). -/
abbrev Memory := List Host.Cell

/-- Why a step has no next state. No rule of FDTR stops the machine (R253): both reasons belong to states that no run from
reset reaches, and an invariant of the model (`Sys2Proof.Safety.Inv`) rules both out. -/
inductive Fault where
  /-- Raised by the state-machine step when `FSM` and `OP` are a pair R23 does not list ("A model may treat any other pair
  as unreachable and give it no step"). Safe: the model stops where the spec gives no step. Assumption log 3. -/
  | unreachablePair
  /-- Raised by the state-machine step when it would read a ROM byte, or read or write a buffer cell, that does not exist
  (R172 and R79: every index is in range in every reachable state). Safe. Assumption log 3. -/
  | indexOutOfRange
deriving DecidableEq, Repr

/-- Why an operation has no meaning. Every operation of the opcode table has one. -/
inductive Refusal where
  /-- Raised by an arm of `exec` whose operation has no meaning yet; no arm raises it. Safe. -/
  | notModelled (mnemonic : String)
deriving DecidableEq, Repr

/-- The state `S` of FDTR (R20), its parameters, and the model's input script. -/
structure State where
  /-- the parameters of this FDTR (R5); no step writes them -/
  cfg : Config.Params
  /-- `FSM`, 4 bits (R21) -/
  fsm : Fsm
  /-- `OP`, 4 bits (R22) -/
  op : Operation
  /-- `ARG`, 8 bits (R24) -/
  arg : Byte
  /-- `TXI`, 4 bits (R25) -/
  txi : BitVec 4
  /-- the cells of `RAW` (R26) and `UNS` (R27), under the word indices of R65 -/
  mem : Memory
  /-- `RAWCNT`, 8 bits (R26) -/
  rawcnt : Byte
  /-- `UNSCNT`, 8 bits (R27) -/
  unscnt : Byte
  /-- `RD[0..9]`, 32 bits each (R28) -/
  rd : Vector Word 10
  /-- `RDVALID` (R29) -/
  rdvalid : Bool
  /-- `DEADLINE`, 32 bits (R30) -/
  deadline : Word
  /-- `DLCNT`, 32 bits (R31) -/
  dlcnt : Word
  /-- `TMR`, 32 bits (R32) -/
  tmr : Word
  /-- `PTMR`, 32 bits (R33) -/
  ptmr : Word
  /-- `TKEN` (R33) -/
  tken : Bool
  /-- `PTICK` (R33) -/
  ptick : Bool
  /-- `EXITCODE` (R34) -/
  exitcode : Bool
  /-- `RESULT` (R35) -/
  result : ResultReg
  /-- `ERRINFO` (R36) -/
  errinfo : ErrInfoReg
  /-- `EV` (R37) -/
  ev : EvReg
  /-- `IE`, 7 bits (R38) -/
  ie : BitVec 7
  /-- `IP`, 7 bits (R38) -/
  ip : BitVec 7
  /-- the model's own: the inputs already chosen by the environment for the coming steps, the next step's first (R8) -/
  script : List Inputs
  /-- the model's own: how many input vectors have been drawn after the script ran out (U4, U5) -/
  draws : Nat
deriving DecidableEq, Repr

/-- The reset state of R270, for given parameters and a given environment: every element has the value R20 lists. -/
def State.resetWith (cfg : Config.Params) (script : List Inputs) (draws : Nat) : State :=
  { cfg := cfg, fsm := .idle, op := .none, arg := 0, txi := 0, mem := [], rawcnt := 0, unscnt := 0,
    rd := #v[0, 0, 0, 0, 0, 0, 0, 0, 0, 0], rdvalid := false, deadline := cfg.tDeadline, dlcnt := 0, tmr := 0, ptmr := 0,
    tken := false, ptick := false, exitcode := false, result := ⟨.none, .none, 0⟩, errinfo := ⟨.none, 0⟩,
    ev := ⟨false, .none, 0⟩, ie := 0, ip := 0, script := script, draws := draws }

/-- The machine right after reset (R270), at the default parameters (R5), with no input scripted. -/
def State.reset : State := State.resetWith Config.defaults [] 0

end Sys2Proof.Machine
end

