-- ==== Sys2Proof/Machine/Flags.lean ====
section
/-! DEFINITION. The interrupt bits of FDTR: their masks, the composition of `IP` at the end of a step, and the interrupt line
(spec/60_exceptions.md R240 to R242). FDTR has no other flags. -/

namespace Sys2Proof.Machine

/-! ### Masks (table of R240) -/

/-- bit 0 `DONE` -/
def ipDone : BitVec 7 := 0x01
/-- bit 1 `READING` -/
def ipReading : BitVec 7 := 0x02
/-- bit 2 `NODATA` -/
def ipNodata : BitVec 7 := 0x04
/-- bit 3 `ERROR` -/
def ipError : BitVec 7 := 0x08
/-- bit 4 `LIVE` -/
def ipLive : BitVec 7 := 0x10
/-- bit 5 `EXITED` -/
def ipExited : BitVec 7 := 0x20
/-- bit 6 `REJ` -/
def ipRej : BitVec 7 := 0x40

/-- The bits `complete(kind, ..)` sets (R235). -/
def completionBits (kind : Kind) : BitVec 7 :=
  match kind with
  | .reading => ipDone ||| ipReading
  | .nodata => ipDone ||| ipNodata
  | .none | .ok | .error => ipDone

/-- `IP <- (S.IP AND NOT w1c) OR hwset` (R242). -/
def composeIp (ip w1c hwset : BitVec 7) : BitVec 7 := (ip &&& ~~~w1c) ||| hwset

/-- `irq = 1` exactly when `(S.IP AND S.IE) ≠ 0` (R241). -/
def irq (s : State) : Bool := decide (s.ip &&& s.ie ≠ 0)

/-- `BUSY` is 1 exactly when `FSM ∉ (IDLE, EXITED)` (R42). -/
def busy (s : State) : Bool := decide (s.fsm ≠ .idle ∧ s.fsm ≠ .exited)

end Sys2Proof.Machine
end

