-- ==== Sys2Proof/Machine/Ops.lean ====
section
/-! DEFINITION. The shared operations: reading and writing buffer cells, the inputs of a step, what a step writes while it is
being worked out, taking an error (FDTR's exception: `report`, `complete`, `raise`, the fatal sequence; spec/60_exceptions.md
R235 to R239; there is no return, R245), the period ticker (R252), and the parts every command shares (spec/30_encoding.md
R95, R97). -/

namespace Sys2Proof.Machine

/-! ### Buffer cells -/

/-- The canonical form of a memory: addresses strictly rising, no entry equal to the value of an unlisted address. -/
abbrev Memory.wf (m : Memory) : Prop := m.Pairwise (fun a b => a.1 < b.1) ∧ ∀ c ∈ m, c.2 ≠ 0#8

/-- The byte at an address; an unlisted address reads as 0x00 (R270). -/
def Memory.read : Memory → Nat → Byte
  | [], _ => 0#8
  | (k, v) :: t, a => if k = a then v else Memory.read t a

/-- Store a byte, keeping the canonical form. -/
def Memory.write : Memory → Nat → Byte → Memory
  | [], a, v => if v = 0#8 then [] else [(a, v)]
  | (k, w) :: t, a, v =>
    if a < k then (if v = 0#8 then (k, w) :: t else (a, v) :: (k, w) :: t)
    else if a = k then (if v = 0#8 then t else (a, v) :: t)
    else (k, w) :: Memory.write t a v

/-- The `n` bytes from address `a` on. -/
def Memory.readBytes (m : Memory) (a : Nat) : Nat → List Byte
  | 0 => []
  | n + 1 => m.read a :: Memory.readBytes m (a + 1) n

/-- Store a list of bytes from address `a` on. -/
def Memory.writeBytes (m : Memory) (a : Nat) : List Byte → Memory
  | [] => m
  | b :: t => Memory.writeBytes (m.write a b) (a + 1) t

/-- The address of cell `RAW[0]`: its word index (R65). -/
def rawBase : Nat := 0x40
/-- The address of cell `UNS[0]`: its word index (R65). -/
def unsBase : Nat := 0x80

/-- `RAW[i]` (R26). -/
def State.raw (s : State) (i : Nat) : Byte := s.mem.read (rawBase + i)
/-- `UNS[i]` (R27). -/
def State.uns (s : State) (i : Nat) : Byte := s.mem.read (unsBase + i)
/-- `RAW[0..RAWCNT)`, the RawFrame (R26). -/
def State.rawFrame (s : State) : List Byte := s.mem.readBytes rawBase s.rawcnt.toNat
/-- `UNS[off..UNSCNT)`, the DecodedPayload; empty when `off >= UNSCNT` (R27, R139). -/
def State.payload (s : State) (off : Nat) : List Byte := s.mem.readBytes (unsBase + off) (s.unscnt.toNat - off)

/-! ### The inputs of a step -/

/-- The inputs of the coming step: the head of the script, or free values once the script has run out (R8, U4, U5). -/
def State.input (s : State) : Inputs :=
  match s.script with
  | i :: _ => i
  | [] => Config.freeInputs s.draws

/-- The state with the inputs of the coming step used up. -/
def State.advance (s : State) : State :=
  match s.script with
  | _ :: t => { s with script := t }
  | [] => { s with draws := s.draws + 1 }

/-- The state in which the environment presents `i` at the coming step. -/
def State.present (i : Inputs) (s : State) : State := { s with script := i :: s.script }

/-- A step in which the host writes `w` to word `idx` and every other input is quiet. -/
def hostWriteInputs (idx : BitVec 8) (w : Word) : Inputs := { hSel := true, hWe := true, hWidx := idx, hWdata := w }

/-- The inputs of a step are a host write (R66). -/
def hostWrites (i : Inputs) : Bool := i.hSel && i.hWe

/-- The command word the host writes in a step: a write to `CMD`, word index 0x00 (R40, R67). -/
def hostCommand (i : Inputs) : Option Word := if hostWrites i = true ∧ i.hWidx = 0#8 then some i.hWdata else none

/-! ### A step being worked out -/

/-- What a step has written so far: the state, and the interrupt bits set (`hwset`, R242). Every read of R9 items (3) to
(5) is of the pre-step state, which the operations below take beside it as `s`. -/
structure Act where
  st : State
  hw : BitVec 7
deriving DecidableEq, Repr

/-- Set bits of `IP` in this step (R235: "the bit joins the hardware-set mask of this step"). -/
def Act.set (a : Act) (bits : BitVec 7) : Act := { a with hw := a.hw ||| bits }

/-- A rejected host write sets `IP.REJ` and changes nothing else (R66, R94, R95). -/
def Act.reject (a : Act) : Act := a.set ipRej

/-- `EV.valid <- 0` at every step without `rst` (R9 item 2, R237). -/
def clearEvent (t : State) : State := { t with ev := { t.ev with valid := false } }

/-- `T_PERIOD` firings: the ticker fires in this step (R252, `fire`). -/
def tickerFires (s : State) (i : Inputs) : Bool := s.tken && i.tick && decide (s.ptmr.toNat ≤ 1)

/-- The pending period tick is consumed in this step (R252, `consume`; R205). -/
def tickerConsumed (s : State) : Bool := decide (s.fsm = .waitp) && s.ptick

/-- The period ticker (R252), from the pre-step state `s`. -/
def ticker (s : State) (i : Inputs) (t : State) : State :=
  { t with
    ptmr := if tickerFires s i then s.cfg.tPeriod else if s.tken && i.tick then s.ptmr - 1 else s.ptmr
    ptick := tickerFires s i || (s.ptick && !tickerConsumed s) }

/-- Items (2) and (3) of R9: what a step has written before the state machine steps. -/
def startAct (s : State) : Act := { st := ticker s s.input (clearEvent s.advance), hw := 0 }

/-- Item (6) of R9: compose `IP` (R242) from the pre-step `IP`, the host's clear mask and the bits set. -/
def Act.finish (s : State) (w1c : BitVec 7) (a : Act) : State := { a.st with ip := composeIp s.ip w1c a.hw }

/-! ### Completion and errors -/

/-- `complete(kind, err, count)` (R235): `s` is the pre-step state. -/
def complete (s : State) (kind : Kind) (err : ErrCode) (count : Byte) (a : Act) : Act :=
  let t : State := { a.st with result := ⟨kind, err, count⟩ }
  let t : State :=
    if s.op = .run then
      match kind with
      | .reading => { t with fsm := .fwd }
      | .nodata => { t with tmr := s.cfg.tCooldown, fsm := .cool }
      | .none | .ok | .error => { t with fsm := .live }
    else { t with fsm := .idle, op := .none }
  Act.set { a with st := t } (completionBits kind)

/-- `report(E, count)` (R236): the log line of the document (R233). -/
def report (e : ErrCode) (count : Byte) (a : Act) : Act :=
  Act.set { a with st := { a.st with errinfo := ⟨e, count⟩, ev := ⟨true, e, count⟩ } } ipError

/-- `raise E(count)`, a recoverable error (R236). -/
def raiseError (s : State) (e : ErrCode) (count : Byte) (a : Act) : Act := complete s .error e count (report e count a)

/-- The fatal sequence (R238), for `SENSOR_START_FAILED`. -/
def fatal (e : ErrCode) (count : Byte) (a : Act) : Act :=
  let a := report e count a
  let t : State :=
    { a.st with result := ⟨.error, e, count⟩, fsm := .exited, exitcode := true, op := .none, tken := false }
  Act.set { a with st := t } (ipDone ||| ipExited)

/-! ### Commands -/

/-- The common part of the accept sequence (R97): `RESULT <- (0, 0, 0)`, `OP <- op`, `ARG <- n`, `FSM <- f`. -/
def accept (op : Operation) (n : Byte) (f : Fsm) (t : State) : State :=
  { t with result := ⟨.none, .none, 0⟩, op := op, arg := n, fsm := f }

/-- What an accepted `STOP` leaves (R211): the pre-step state with these changes only; its inputs are used up. -/
def stopAct (s : State) : Act :=
  { st := { clearEvent s.advance with fsm := .exited, exitcode := false, op := .none, tken := false, ptick := false }
    hw := ipExited }

/-- The state after a step with `rst = 1` (R270, R271): the parameters and what the environment has still to present stay. -/
def resetAct (s : State) : State := State.resetWith s.cfg s.advance.script s.advance.draws

end Sys2Proof.Machine
end

