-- ==== Sys2Proof/Machine/Operands.lean ====
section
/-! DEFINITION. The host register space: the numeric codes software sees, the register map as the host reads it
(spec/10_state.md R39 to R41) and as it writes it (spec/20_memory.md R66 to R73). The one operand form of the operations,
the byte `n`, is taken from the word by the decoder (R91). -/

namespace Sys2Proof.Machine

/-! ### Codes -/

/-- State codes 0 to 11 (R21). -/
def Fsm.code : Fsm → BitVec 4
  | .idle => 0 | .txs => 1 | .txr => 2 | .drn => 3 | .rdx => 4 | .dec => 5
  | .settle => 6 | .waitp => 7 | .fwd => 8 | .cool => 9 | .live => 10 | .exited => 11

/-- Operation codes: the opcodes of R92, 0 for none (R22). -/
def Operation.code : Operation → BitVec 4
  | .none => 0 | .txstart => 1 | .txreq => 2 | .drain => 3 | .readx => 4
  | .unstuff => 5 | .decode => 6 | .sample => 7 | .run => 8

/-- KIND codes (R234). -/
def Kind.code : Kind → BitVec 3
  | .none => 0 | .ok => 1 | .reading => 2 | .nodata => 3 | .error => 4

/-- Error codes (R230). -/
def ErrCode.code : ErrCode → BitVec 5
  | .none => 0 | .configMissing => 1 | .transportOpenFailed => 2 | .sensorStartFailed => 3 | .requestFailed => 4
  | .timeout => 5 | .shortFrame => 6 | .malformedPayload => 7 | .ioError => 8 | .streamClosed => 9 | .forwardFailed => 10

/-! ### Reads -/

/-- `STATUS` (R39): [31:24] ARG, [19:16] TXI, [13] EXITCODE, [12] EXITED, [11] PTICK, [10] TKEN, [9] RDVALID, [8] BUSY,
[7:4] OP, [3:0] FSM; the other bits zero. -/
def statusWord (s : State) : Word :=
  s.arg ++ 0#4 ++ s.txi ++ 0#2 ++ bit s.exitcode ++ bit (decide (s.fsm = .exited)) ++ bit s.ptick ++ bit s.tken ++
    bit s.rdvalid ++ bit (busy s) ++ s.op.code ++ s.fsm.code

/-- `RESULT` as read (R41): [2:0] KIND, [7:3] ERR, [15:8] COUNT. -/
def resultWord (r : ResultReg) : Word := 0#16 ++ r.count ++ r.err.code ++ r.kind.code

/-- `ERRINFO` as read (R41): [4:0] CODE, [15:8] COUNT. -/
def errinfoWord (e : ErrInfoReg) : Word := 0#16 ++ e.count ++ 0#3 ++ e.code.code

/-- The word index is a cell of `RAW` that exists (R41, R65). -/
def isRawIndex (cap idx : Nat) : Bool := decide (rawBase ≤ idx ∧ idx < rawBase + cap)
/-- The word index is a cell of `UNS` that exists (R41, R65). -/
def isUnsIndex (cap idx : Nat) : Bool := decide (unsBase ≤ idx ∧ idx < unsBase + cap)

/-- The read value of a word of the register space (table of R41); `CMD` and unmapped indices read as 0 (R63). -/
def regRead (s : State) (idx : BitVec 8) : Word :=
  let n := idx.toNat
  if n = 0x01 then statusWord s
  else if n = 0x02 then resultWord s.result
  else if n = 0x03 then errinfoWord s.errinfo
  else if n = 0x04 then s.deadline
  else if n = 0x05 then s.ie.setWidth 32
  else if n = 0x06 then s.ip.setWidth 32
  else if n = 0x07 then s.rawcnt.setWidth 32
  else if n = 0x08 then s.unscnt.setWidth 32
  else if n = 0x0A then s.dlcnt
  else if n = 0x0B then s.tmr
  else if n = 0x0C then s.ptmr
  else if 0x10 ≤ n ∧ n ≤ 0x19 then (s.rd[n - 0x10]?).getD 0
  else if isRawIndex s.cfg.rawCap n || isUnsIndex s.cfg.rawCap n then (s.mem.read n).setWidth 32
  else 0

/-! ### Writes other than to `CMD` -/

/-- `min(h_wdata, RAW_CAP)` as a count (R69). -/
def clampCount (cap : Nat) (w : Word) : Byte := BitVec.ofNat 8 (min w.toNat cap)

/-- The idle-gated registers: `DEADLINE`, `RAWCNT`, `UNSCNT`, `RAW[i]`, `UNS[i]` (R66). -/
def idleGated (cap : Nat) (idx : BitVec 8) : Bool :=
  decide (idx.toNat = 0x04 ∨ idx.toNat = 0x07 ∨ idx.toNat = 0x08) || isRawIndex cap idx.toNat || isUnsIndex cap idx.toNat

/-- What a write that takes effect stores (R68 to R70); any other index stores nothing (R73). -/
def storeIdle (cap : Nat) (idx : BitVec 8) (w : Word) (t : State) : State :=
  let n := idx.toNat
  if n = 0x04 then { t with deadline := w }
  else if n = 0x07 then { t with rawcnt := clampCount cap w }
  else if n = 0x08 then { t with unscnt := clampCount cap w }
  else if isRawIndex cap n || isUnsIndex cap n then { t with mem := t.mem.write n (w.setWidth 8) }
  else t

/-- A host write to a word other than `CMD` (R66 to R73), from the pre-step state `s`. -/
def hostStore (s : State) (idx : BitVec 8) (w : Word) (a : Act) : Act :=
  if idleGated s.cfg.rawCap idx then
    if s.fsm = .idle then { a with st := storeIdle s.cfg.rawCap idx w a.st } else a.reject
  else if idx.toNat = 0x05 then { a with st := { a.st with ie := w.setWidth 7 } }
  else a

/-- `w1c`: `h_wdata[6:0]` when the step is a host write to `IP`, else 0 (R72, R242). -/
def clearMask (i : Inputs) : BitVec 7 := if hostWrites i = true ∧ i.hWidx.toNat = 0x06 then i.hWdata.setWidth 7 else 0

end Sys2Proof.Machine
end

