-- ==== Sys2Proof/Machine/Codec.lean ====
section
/-! DEFINITION. The pure functions of FrameCodec (spec/40_frame_codec.md): the two command ROMs, `unstuff` and its test
companion `stuff`, `be32`, `ROUND2` and `decode`. -/

namespace Sys2Proof.Machine

/-! ### Command ROMs -/

/-- `START[0..7]` (R98, R120). -/
def startRom : List Byte := [0x7E, 0x00, 0x00, 0x02, 0x01, 0x03, 0xF9, 0x7E]
/-- `REQ[0..5]` (R99, R121). -/
def reqRom : List Byte := [0x7E, 0x00, 0x03, 0x00, 0xFC, 0x7E]

/-! ### Byte stuffing -/

/-- `esc` of R125: the second byte of an escape pair to the byte it stands for (R101). -/
def esc (b : Byte) : Option Byte :=
  if b = 0x5E#8 then some 0x7E#8
  else if b = 0x5D#8 then some 0x7D#8
  else if b = 0x31#8 then some 0x11#8
  else if b = 0x33#8 then some 0x13#8
  else none

/-- `unstuff(L)` (R125): one left-to-right pass over disjoint pairs. -/
def unstuff : List Byte → List Byte
  | [] => []
  | [b] => [b]
  | b :: c :: t =>
    if b = 0x7D#8 then
      match esc c with
      | some e => e :: unstuff t
      | none => b :: unstuff (c :: t)
    else b :: unstuff (c :: t)

/-- One byte of `stuff(P)` (R128). -/
def stuffByte (b : Byte) : List Byte :=
  if b = 0x7E#8 then [0x7D, 0x5E]
  else if b = 0x7D#8 then [0x7D, 0x5D]
  else if b = 0x11#8 then [0x7D, 0x31]
  else if b = 0x13#8 then [0x7D, 0x33]
  else [b]

/-- `stuff(P)`, the test helper of R128; no operation of FDTR computes it. -/
def stuff : List Byte → List Byte
  | [] => []
  | b :: t => stuffByte b ++ stuff t

/-! ### binary32 (R102, R134) -/

/-- `be32(b0, b1, b2, b3)`: the first byte in payload order is the most significant (R133). -/
def be32 (b0 b1 b2 b3 : Byte) : Word := b0 ++ b1 ++ b2 ++ b3

/-- `sgn(w) = w[31]` (R134). -/
def sgn (w : Word) : BitVec 1 := w.extractLsb' 31 1
/-- `exp(w) = w[30:23]` (R134). -/
def expo (w : Word) : BitVec 8 := w.extractLsb' 23 8
/-- `frac(w) = w[22:0]` (R134). -/
def frac (w : Word) : BitVec 23 := w.extractLsb' 0 23

/-- `mag(w) * 2^149`, an integer for every finite pattern: `frac(w)` when `exp(w) = 0`, else
`(2^23 + frac(w)) * 2^(exp(w) - 1)` (R134). -/
def magScaled (w : Word) : Nat :=
  if expo w = 0#8 then (frac w).toNat else (2 ^ 23 + (frac w).toNat) * 2 ^ ((expo w).toNat - 1)

/-- `n = floor(100 * v + 1/2)` of R136, with `v = mag(w)`: the nearest number of hundredths, halves up in magnitude. -/
def hundredths (w : Word) : Nat := (200 * magScaled w + 2 ^ 149) / 2 ^ 150

/-- `ceil(100 * v - 1/2)`: the nearest number of hundredths, halves down in magnitude. It differs from `hundredths w` only on
a tie (R135 c, R137 a). -/
def hundredthsDown (w : Word) : Nat := (200 * magScaled w + (2 ^ 149 - 1)) / 2 ^ 150

/-- A quotient of natural numbers rounded to nearest, ties to even. -/
def divNearestEven (a b : Nat) : Nat :=
  let q := a / b
  let r := a % b
  if 2 * r < b then q else if b < 2 * r then q + 1 else if q % 2 = 0 then q else q + 1

/-- `RNE32(n / 100)` of R136: the pattern (sign 0) of the finite binary32 value nearest to `n / 100`. With
`n / 100 * 2^149` below `2^24 * 2^e`, and `e` the least such number, the patterns near it are spaced `2^e` units of
`2^-149` apart, and pattern `e * 2^23 + k` has the value `k * 2^e` of those units. -/
def rne32Hundredths (n : Nat) : Word :=
  let e := Nat.log2 (n * 2 ^ 149 / 100) - 23
  BitVec.ofNat 32 (e * 2 ^ 23 + divNearestEven (n * 2 ^ 149) (100 * 2 ^ e))

/-- The default `ROUND2(w)` (R136): NaN and infinities pass through, all bits; otherwise half away from zero on the exact
value, one correctly rounded conversion, and the sign of the input kept. -/
def round2Default (w : Word) : Word :=
  if expo w = 255#8 then w
  else sgn w ++ (rne32Hundredths (hundredths w)).extractLsb' 0 31

/-- `ROUND2` with the other tie rule R135 (c) names: as R136, but a tie goes to the even number of hundredths. -/
def round2HalfEven (w : Word) : Word :=
  if expo w = 255#8 then w
  else sgn w ++ (rne32Hundredths (if hundredths w % 2 = 0 then hundredths w else hundredthsDown w)).extractLsb' 0 31

/-- What R135 (a) asks of the result `r` for the pattern `w`: `r` is the binary32 value of `w` rounded to a nearest multiple of
0.01, of either neighbour on a tie (c). The spec states nothing for NaN and infinities (U2), nor for the sign of a zero. -/
def roundsToHundredth (w r : Word) : Bool :=
  expo w = 255#8 ||
    ((r.extractLsb' 0 31 = (rne32Hundredths (hundredths w)).extractLsb' 0 31 ||
        r.extractLsb' 0 31 = (rne32Hundredths (hundredthsDown w)).extractLsb' 0 31) &&
      (sgn r = sgn w || r.extractLsb' 0 31 = 0#31))

/-- A given `ROUND2`: the graph where it has a pair that R135 allows, and R136 elsewhere. -/
def round2Given (graph : List (Word × Word)) (w : Word) : Word :=
  match graph.lookup w with
  | some r => if roundsToHundredth w r then r else round2Default w
  | none => round2Default w

/-- `ROUND2` of a machine with these parameters (R5, U1). -/
def round2 (cfg : Config.Params) (w : Word) : Word :=
  match cfg.rounding with
  | .halfAway => round2Default w
  | .halfEven => round2HalfEven w
  | .given graph => round2Given graph w

/-! ### decode -/

/-- Field `i` of a payload before rounding: `be32(P[4i], P[4i+1], P[4i+2], P[4i+3])` (R64, R131). -/
def field (p : List Byte) (i : Nat) : Word :=
  be32 (p.getD (4 * i) 0) (p.getD (4 * i + 1) 0) (p.getD (4 * i + 2) 0) (p.getD (4 * i + 3) 0)

/-- The ten fields of a payload of at least 40 bytes, each rounded, in payload order (R131, R132). -/
def reading (cfg : Config.Params) (p : List Byte) : Vector Word 10 :=
  #v[round2 cfg (field p 0), round2 cfg (field p 1), round2 cfg (field p 2), round2 cfg (field p 3),
     round2 cfg (field p 4), round2 cfg (field p 5), round2 cfg (field p 6), round2 cfg (field p 7),
     round2 cfg (field p 8), round2 cfg (field p 9)]

/-- `decode(P)` (R131): `none` is `MALFORMED_PAYLOAD`, when fewer than 40 bytes are there; only `P[0..40)` is used. -/
def decodePayload (cfg : Config.Params) (p : List Byte) : Option (Vector Word 10) :=
  if p.length < Config.payloadMin then none else some (reading cfg p)

end Sys2Proof.Machine
end

