-- ==== Sys2Proof/Machine/States.lean ====
section
/-! DEFINITION. The step of each state of the state machine (R23), one definition per state, from the pre-step state `s` and
the step's inputs: what it adds to what the step has written so far. `TXS`, `TXR`, `DEC` are FrameCodec's and SampleCycle's
(spec/40_frame_codec.md, spec/42_sample_cycle.md), `RDX`, `DRN` TimedReader's (spec/41_timed_reader.md), the rest
SamplingLoop's (spec/43_sampling_loop.md). -/

namespace Sys2Proof.Machine

/-- `DLCNT <- S.DLCNT - 1` if `tick = 1` (R162 cases 5 and 6). -/
def countDeadline (s : State) (i : Inputs) (t : State) : State :=
  if i.tick then { t with dlcnt := s.dlcnt - 1 } else t

/-- `RAWCNT <- 0`, `DLCNT <- S.DEADLINE`, `FSM <- RDX`: a read starts (R97, R124, R183). -/
def startRead (s : State) (t : State) : State := { t with rawcnt := 0, dlcnt := s.deadline, fsm := .rdx }

/-- The last byte of a command frame was accepted (R124). The pair of `FSM` and `OP` is one R23 lists. -/
def txDone (s : State) (a : Act) : Act :=
  if s.fsm = .txs then
    if s.op = .run then { a with st := { a.st with tmr := s.cfg.tSettle, fsm := .settle } }
    else complete s .ok .none 8 a
  else if s.op = .txreq then complete s .ok .none 6 a
  else { a with st := startRead s a.st }

/-- Step of states `TXS` and `TXR` (R124), `len` the length of the frame: `tx_err` before `tx_ready`. -/
def txStep (len : Nat) (s : State) (i : Inputs) (a : Act) : Except Fault Act :=
  if len ≤ s.txi.toNat then .error .indexOutOfRange
  else if i.txErr then
    .ok (if s.fsm = .txs then fatal .sensorStartFailed (s.txi.setWidth 8) a
      else raiseError s .requestFailed (s.txi.setWidth 8) a)
  else if i.txReady then
    let a := { a with st := { a.st with txi := s.txi + 1 } }
    .ok (if s.txi.toNat = len - 1 then txDone s a else a)
  else .ok a

/-- Step of state `DRN` (R168). -/
def drnStep (s : State) (i : Inputs) (a : Act) : Act :=
  if i.rxSt = .byte then a
  else if s.op = .drain then complete s .ok .none 0 a
  else { a with st := { a.st with txi := 0, fsm := .txr } }

/-- `L` of R162: `ARG` for `READX`, `FRAME_LEN` in a cycle. -/
def readLength (s : State) : Byte := if s.op = .readx then s.arg else BitVec.ofNat 8 Config.frameLen

/-- The buffer is full (R162 case 1). `SHORT_FRAME` cannot happen (R184, C2). -/
def rdxFull (s : State) (a : Act) : Act :=
  if s.op = .readx then complete s .ok .none s.rawcnt a
  else if s.rawcnt ≠ BitVec.ofNat 8 Config.frameLen then raiseError s .shortFrame s.rawcnt a
  else { a with st := { a.st with fsm := .dec } }

/-- Step of state `RDX` (R162): full, then deadline, then `ERR`, `EOS`, `BYTE`, `NONE`. -/
def rdxStep (s : State) (i : Inputs) (a : Act) : Except Fault Act :=
  if s.rawcnt = readLength s then .ok (rdxFull s a)
  else if s.dlcnt = 0#32 then .ok (raiseError s .timeout s.rawcnt a)
  else
    match i.rxSt with
    | .err => .ok (raiseError s .ioError s.rawcnt a)
    | .eos =>
      .ok (if s.op = .readx then complete s .error .streamClosed s.rawcnt a else complete s .nodata .none s.rawcnt a)
    | .byte =>
      if s.rawcnt.toNat < s.cfg.rawCap then
        .ok { a with st := countDeadline s i { a.st with
          mem := a.st.mem.write (rawBase + s.rawcnt.toNat) i.rxData
          rawcnt := s.rawcnt + 1 } }
      else .error .indexOutOfRange
    | .none => .ok { a with st := countDeadline s i a.st }

/-- Unstuff the valid part of `RAW` into `UNS` (R130, first three lines of R185). -/
def unstuffInto (s : State) (t : State) : State :=
  let u := unstuff s.rawFrame
  { t with mem := t.mem.writeBytes unsBase u, unscnt := BitVec.ofNat 8 u.length }

/-- Decode a payload (R139, last lines of R185). -/
def decodeInto (s : State) (p : List Byte) (a : Act) : Act :=
  match decodePayload s.cfg p with
  | none => raiseError s .malformedPayload (BitVec.ofNat 8 p.length) { a with st := { a.st with rdvalid := false } }
  | some r => complete s .reading .none 40 { a with st := { a.st with rd := r, rdvalid := true } }

/-- Step of state `DEC` when `OP = UNSTUFF` (R130). -/
def decUnstuff (s : State) (a : Act) : Act :=
  complete s .ok .none (BitVec.ofNat 8 (unstuff s.rawFrame).length) { a with st := unstuffInto s a.st }

/-- Step of state `DEC` when `OP = DECODE` (R139). -/
def decDecode (s : State) (a : Act) : Act := decodeInto s (s.payload s.arg.toNat) a

/-- Step of state `DEC` in a cycle (R185): `unstuff` and `decode` with one `complete`. -/
def decCycle (s : State) (a : Act) : Act :=
  decodeInto s ((unstuff s.rawFrame).drop Config.hdrLen) { a with st := unstuffInto s a.st }

/-- Step of state `DEC` (R23): its buffer reads are in range exactly when the counts are (R79). -/
def decStep (s : State) (a : Act) : Except Fault Act :=
  if s.op = .decode then
    if s.unscnt.toNat ≤ s.cfg.rawCap then .ok (decDecode s a) else .error .indexOutOfRange
  else if s.rawcnt.toNat ≤ s.cfg.rawCap then .ok (if s.op = .unstuff then decUnstuff s a else decCycle s a)
  else .error .indexOutOfRange

/-- Step of state `SETTLE` (R203); its assignments override the ticker's. -/
def settleStep (s : State) (i : Inputs) (a : Act) : Act :=
  if s.tmr = 0#32 then
    { a with st := { a.st with tken := true, ptmr := s.cfg.tPeriod, ptick := false, fsm := .waitp } }
  else if i.tick then { a with st := { a.st with tmr := s.tmr - 1 } }
  else a

/-- Step of state `WAITP` (R205); `PTICK` is consumed by the ticker's own rule (R252). -/
def waitpStep (s : State) (a : Act) : Act :=
  if s.ptick then
    { a with st := { a.st with result := ⟨.none, .none, 0⟩, rawcnt := 0, unscnt := 0, rdvalid := false, fsm := .drn } }
  else a

/-- Step of state `FWD` (R208): `snk_fail` before `snk_ok`. -/
def fwdStep (i : Inputs) (a : Act) : Act :=
  if i.snkFail then
    let a := report .forwardFailed 0 a
    { a with st := { a.st with fsm := .live } }
  else if i.snkOk then { a with st := { a.st with fsm := .live } }
  else a

/-- Step of state `COOL` (R209). -/
def coolStep (s : State) (i : Inputs) (a : Act) : Act :=
  if s.tmr = 0#32 then { a with st := { a.st with fsm := .live } }
  else if i.tick then { a with st := { a.st with tmr := s.tmr - 1 } }
  else a

/-- Step of state `LIVE` (R210). -/
def liveStep (a : Act) : Act := Act.set { a with st := { a.st with fsm := .waitp } } ipLive

/-- The pairs of `FSM` and `OP` that can occur in a busy state (R23). `IDLE` and `EXITED` go with any `OP`: their step does
not look at it. -/
def legalPair (f : Fsm) (op : Operation) : Bool :=
  match f with
  | .idle | .exited => true
  | .txs => op = .txstart || op = .run
  | .txr => op = .txreq || op = .sample || op = .run
  | .drn => op = .drain || op = .sample || op = .run
  | .rdx => op = .readx || op = .sample || op = .run
  | .dec => op = .unstuff || op = .decode || op = .sample || op = .run
  | .settle | .waitp | .fwd | .cool | .live => op = .run

/-- The step of the state machine, item (4) of R9, chosen by `S.FSM` (R23). -/
def fsmStep (s : State) (i : Inputs) (a : Act) : Except Fault Act :=
  if legalPair s.fsm s.op then
    match s.fsm with
    | .idle => .ok a
    | .txs => txStep Config.startLen s i a
    | .txr => txStep Config.reqLen s i a
    | .drn => .ok (drnStep s i a)
    | .rdx => rdxStep s i a
    | .dec => decStep s a
    | .settle => .ok (settleStep s i a)
    | .waitp => .ok (waitpStep s a)
    | .fwd => .ok (fwdStep i a)
    | .cool => .ok (coolStep s i a)
    | .live => .ok (liveStep a)
    | .exited => .ok a
  else .error .unreachablePair

end Sys2Proof.Machine
end

