-- ==== Sys2Proof/Machine/Clock.lean ====
section
/-! DEFINITION. One clock step around what the host does in it (spec/00_scope.md R9): the event clear, the ticker, the state
machine, the host's part, and the composition of `IP`; and from it the step without a host write, with a host write to a
register, with a reserved command word, with a rejected or an accepted command, and with `rst`. -/

namespace Sys2Proof.Machine

/-- The outcome of a step of FDTR. -/
abbrev Outcome := Host.Outcome State Fault Refusal

/-- Items (2) to (6) of R9 with `host` as the host's part (5) and `w1c` its clear mask (R242). -/
def clockStep (s : State) (w1c : BitVec 7) (host : Act → Act) : Outcome :=
  match fsmStep s s.input (startAct s) with
  | .error f => .fault f
  | .ok a => .next (Act.finish s w1c (host a))

/-- A step without a host write: no access, or a read, which has no side effect (R63). -/
def quietStep (s : State) : Outcome := clockStep s 0 id

/-- A step with a host write to a word other than `CMD` (R66 to R73). -/
def writeStep (s : State) : Outcome :=
  clockStep s (clearMask s.input) (hostStore s s.input.hWidx s.input.hWdata)

/-- A step in which the host writes a command that is rejected: it sets `IP.REJ` and changes nothing else (R94, R95). -/
def rejectStep (s : State) : Outcome := clockStep s 0 Act.reject

/-- A step in which the host writes a reserved command word: rejected in every state (R94). -/
def reservedStep (s : State) : Outcome := rejectStep s

/-- A step in which the host writes a well-formed command with opcode 1 to 8 (R95): accepted in `IDLE`, where `eff` is its
accept sequence (R97), and rejected otherwise. -/
def commandStep (s : State) (eff : State → State) : Outcome :=
  if s.fsm = .idle then clockStep s 0 (fun a => { a with st := eff a.st }) else rejectStep s

/-- A step in which the host writes `STOP` (R95, R211): accepted when `S.OP = RUN`, and then the ticker's and the state
machine's results are discarded; rejected otherwise. -/
def stopStep (s : State) : Outcome :=
  if s.op = .run then .next (Act.finish s 0 (stopAct s)) else rejectStep s

/-- A step with `rst = 1` (R9 item 1, R271). -/
def resetStep (s : State) : Outcome := .next (resetAct s)

end Sys2Proof.Machine
end

