-- ==== Sys2Proof/Machine/FrameCodec.lean ====
section
/-! DEFINITION. The operations of the FrameCodec family (spec/40_frame_codec.md): `TXSTART`, `TXREQ`, `UNSTUFF`, `DECODE`. A
meaning is the step in which the host writes the operation's command word; the steps that carry the operation out are those
of its states (Machine/States.lean). -/

namespace Sys2Proof.Machine

/-- `TXSTART` (R122, R97). -/
def execTxstart (s : State) : Outcome := commandStep s fun t => { accept .txstart 0 .txs t with txi := 0 }

/-- `TXREQ` (R123, R97). -/
def execTxreq (s : State) : Outcome := commandStep s fun t => { accept .txreq 0 .txr t with txi := 0 }

/-- `UNSTUFF` (R129, R97). -/
def execUnstuff (s : State) : Outcome := commandStep s (accept .unstuff 0 .dec)

/-- `DECODE n` (R138, R97). -/
def execDecode (n : Byte) (s : State) : Outcome := commandStep s (accept .decode n .dec)

end Sys2Proof.Machine
end

