-- ==== Sys2Proof/Machine/SampleCycle.lean ====
section
/-! DEFINITION. The operation of the SampleCycle family (spec/42_sample_cycle.md): `SAMPLE`. -/

namespace Sys2Proof.Machine

/-- `SAMPLE` (R181, R97). -/
def execSample (s : State) : Outcome :=
  commandStep s fun t => { accept .sample 0 .drn t with rawcnt := 0, unscnt := 0, rdvalid := false }

end Sys2Proof.Machine
end

