-- ==== Sys2Proof/Machine/SamplingLoop.lean ====
section
/-! DEFINITION. The operations of the SamplingLoop family (spec/43_sampling_loop.md): `RUN`, `STOP`. -/

namespace Sys2Proof.Machine

/-- `RUN` (R201, R97). -/
def execRun (s : State) : Outcome := commandStep s fun t => { accept .run 0 .txs t with txi := 0 }

/-- `STOP` (R211). -/
def execStop (s : State) : Outcome := stopStep s

end Sys2Proof.Machine
end

