-- ==== Sys2Proof/Machine/TimedReader.lean ====
section
/-! DEFINITION. The operations of the TimedReader family (spec/41_timed_reader.md): `READX n`, `DRAIN`. -/

namespace Sys2Proof.Machine

/-- `READX n` (R161, R97). With `n > RAW_CAP` the word is reserved and rejected in every state (R94). -/
def execReadx (n : Byte) (s : State) : Outcome :=
  if n.toNat ≤ s.cfg.rawCap then commandStep s fun t => startRead s (accept .readx n .rdx t) else reservedStep s

/-- `DRAIN` (R167, R97). -/
def execDrain (s : State) : Outcome := commandStep s (accept .drain 0 .drn)

end Sys2Proof.Machine
end

