-- ==== Sys2Proof/Machine/Dispatch.lean ====
section
/-! DEFINITION. The meaning of each operation: the whole clock step in which the host writes its command word and `rst` is 0. -/

namespace Sys2Proof.Machine

def exec (i : Instr) (s : State) : Host.Outcome State Fault Refusal :=
  match i with
  | .txstart => Sys2Proof.Machine.execTxstart s
  | .txreq => Sys2Proof.Machine.execTxreq s
  | .drain => Sys2Proof.Machine.execDrain s
  | .readx n => Sys2Proof.Machine.execReadx n s
  | .unstuff => Sys2Proof.Machine.execUnstuff s
  | .decode n => Sys2Proof.Machine.execDecode n s
  | .sample => Sys2Proof.Machine.execSample s
  | .run => Sys2Proof.Machine.execRun s
  | .stop => Sys2Proof.Machine.execStop s

end Sys2Proof.Machine
end

