-- ==== Sys2Proof/Machine/Step.lean ====
section
/-! DEFINITION. One step of FDTR: one rising edge of the clock (spec/00_scope.md R7), on the inputs the state presents. -/

namespace Sys2Proof.Machine

/-- One step (R7, R9): `rst` beats everything (R243); a write to `CMD` runs the operation its word stands for, or is rejected
when the word is reserved; any other host write goes to its register; a read, or no access, changes nothing of its own. -/
def step (s : State) : Host.Outcome State Fault Refusal :=
  if s.input.rst then resetStep s
  else
    match hostCommand s.input with
    | some w =>
      match decode s.cfg.rawCap w with
      | .ok i => exec i s
      | .error _ => reservedStep s
    | none => if hostWrites s.input then writeStep s else quietStep s

/-- One step with the given inputs: `step(S, I)` of R7. -/
def stepWith (i : Inputs) (s : State) : Host.Outcome State Fault Refusal := step (s.present i)

/-- The state in which the coming step's inputs are the host's write of the row's word to `CMD`, every other input quiet.
FDTR fetches no instruction (R60, R78): a command runs in the step in which the host writes it. Assumption log 4. -/
def State.withFetchWord (s : State) (nbits w : Nat) : State := s.present (hostWriteInputs 0 (tableWord nbits w))

end Sys2Proof.Machine
end

