-- ==== Sys2Proof/Machine/Ports.lean ====
section
/-! DEFINITION. The outputs of FDTR during the clock period before a step: a function of the pre-step state and the sampled
inputs (spec/00_scope.md R7; spec/10_state.md R44 to R50). -/

namespace Sys2Proof.Machine

/-- The output ports (R44 to R49). -/
structure Outputs where
  /-- `h_rdata` (R44) -/
  hRdata : Word
  /-- `rx_take` (R45) -/
  rxTake : Bool
  /-- `tx_valid` (R46) -/
  txValid : Bool
  /-- `tx_data` (R46) -/
  txData : Byte
  /-- `snk_valid` (R48) -/
  snkValid : Bool
  /-- `snk_data` (R48) -/
  snkData : BitVec 320
  /-- `alive` (R49) -/
  alive : Bool
  /-- `ev_valid` (R49) -/
  evValid : Bool
  /-- `ev_code` (R49) -/
  evCode : BitVec 5
  /-- `ev_count` (R49) -/
  evCount : Byte
  /-- `irq` (R49) -/
  irq : Bool
deriving DecidableEq, Repr

/-- `h_rdata`: the read value of `h_widx` in a step with `h_sel = 1` and `h_we = 0`, else 0 (R44, R63). -/
def readData (s : State) (i : Inputs) : Word := if i.hSel && !i.hWe then regRead s i.hWidx else 0

/-- `rx_take`: in `RDX` when the buffer is not full, the deadline has not passed and a byte or condition is presented
(R163); in `DRN` when a byte or condition is presented (R168); 0 in every other state (R45). -/
def rxTake (s : State) (i : Inputs) : Bool :=
  match s.fsm with
  | .rdx => decide (s.rawcnt ≠ readLength s ∧ s.dlcnt ≠ 0#32 ∧ i.rxSt ≠ .none)
  | .drn => decide (i.rxSt ≠ .none)
  | .idle | .txs | .txr | .dec | .settle | .waitp | .fwd | .cool | .live | .exited => false

/-- `tx_valid = 1` exactly when `FSM ∈ (TXS, TXR)` (R46). -/
def txValid (s : State) : Bool := decide (s.fsm = .txs ∨ s.fsm = .txr)

/-- `tx_data`: `START[TXI]` in `TXS`, `REQ[TXI]` in `TXR`, otherwise 0x00 (R46). -/
def txData (s : State) : Byte :=
  match s.fsm with
  | .txs => startRom.getD s.txi.toNat 0
  | .txr => reqRom.getD s.txi.toNat 0
  | .idle | .drn | .rdx | .dec | .settle | .waitp | .fwd | .cool | .live | .exited => 0

/-- `snk_data`: `RD[0] ∥ RD[1] ∥ ... ∥ RD[9]` (R48). -/
def snkData (s : State) : BitVec 320 :=
  s.rd[0] ++ s.rd[1] ++ s.rd[2] ++ s.rd[3] ++ s.rd[4] ++ s.rd[5] ++ s.rd[6] ++ s.rd[7] ++ s.rd[8] ++ s.rd[9]

/-- The output function `out(S, I)` (R7, R50). -/
def out (s : State) (i : Inputs) : Outputs :=
  { hRdata := readData s i
    rxTake := rxTake s i
    txValid := txValid s
    txData := txData s
    snkValid := decide (s.fsm = .fwd)
    snkData := snkData s
    alive := decide (s.fsm = .live)
    evValid := s.ev.valid
    evCode := s.ev.code.code
    evCount := s.ev.count
    irq := irq s }

end Sys2Proof.Machine
end

