-- ==== Sys2Proof/Machine/Run.lean ====
section
/-! DEFINITION. The run of a one-shot operation and its result (spec/60_exceptions.md R253): the steps from the one that
accepts the command to the first later state with `FSM ∈ (IDLE, EXITED)`, the bytes sent on TX and the RX items taken on the
way. -/

namespace Sys2Proof.Machine

/-- An item the RX adapter presents and FDTR takes (R15, R45). -/
inductive RxItem where
  | byte (b : Byte)
  | eos
  | err
deriving DecidableEq, Repr

/-- The byte sent in a step: exactly when `tx_valid = 1`, `tx_ready = 1` and `tx_err = 0` (R124). -/
def sentInStep (s : State) : List Byte :=
  if txValid s && s.input.txReady && !s.input.txErr then [txData s] else []

/-- The RX item taken in a step: the presented one, when `rx_take = 1` (R45). -/
def takenInStep (s : State) : List RxItem :=
  if rxTake s s.input then
    match s.input.rxSt with
    | .none => []
    | .byte => [.byte s.input.rxData]
    | .eos => [.eos]
    | .err => [.err]
  else []

/-- What a run has exchanged with the adapters, oldest first. -/
structure Exchange where
  sent : List Byte
  taken : List RxItem
deriving DecidableEq, Repr

/-- The exchange with a step's bytes and items added. -/
def Exchange.add (e : Exchange) (s : State) : Exchange :=
  { sent := e.sent ++ sentInStep s, taken := e.taken ++ takenInStep s }

/-- The result of a run (R253). -/
structure RunResult where
  result : ResultReg
  errinfo : ErrInfoReg
  rd : Vector Word 10
  rdvalid : Bool
  raw : List Byte
  uns : List Byte
  exitcode : Bool
  exchange : Exchange
deriving DecidableEq, Repr

/-- The result at the last state of a run (R253). -/
def runResult (e : Exchange) (s : State) : RunResult :=
  { result := s.result, errinfo := s.errinfo, rd := s.rd, rdvalid := s.rdvalid, raw := s.rawFrame, uns := s.payload 0,
    exitcode := s.exitcode, exchange := e }

/-- Run from the state in which the command is presented until `FSM ∈ (IDLE, EXITED)`, for at most `k` steps (R253). -/
def runOneShot : Nat → Exchange → State → Option RunResult
  | 0, _, _ => none
  | k + 1, e, s =>
    match step s with
    | .next t => if busy t then runOneShot k (e.add s) t else some (runResult (e.add s) t)
    | .fault _ => none
    | .refused _ => none

end Sys2Proof.Machine
end

