-- ==== Sys2Proof/Safety.lean ====
section
/-! DEFINITION. What holds in every state that matters: the invariants of spec/10_state.md R52 with the ones R22, R33, R35
and R37 add; and the premises about the environment that a liveness claim may use (spec/70_reset_and_hazards.md R283). -/

namespace Sys2Proof.Safety

open Sys2Proof.Machine

/-- The buffers (R26, R27, R52). -/
structure BufferInv (s : State) : Prop where
  /-- the cells keep their canonical form -/
  mem_wf : s.mem.wf
  /-- the cells that exist are `RAW[0..RAW_CAP)` and `UNS[0..RAW_CAP)` -/
  mem_cells : ∀ c ∈ s.mem, (isRawIndex s.cfg.rawCap c.1 || isUnsIndex s.cfg.rawCap c.1) = true
  /-- `RAWCNT <= RAW_CAP` -/
  rawcnt_le : s.rawcnt.toNat ≤ s.cfg.rawCap
  /-- `UNSCNT <= RAW_CAP` -/
  unscnt_le : s.unscnt.toNat ≤ s.cfg.rawCap

/-- The state machine and its ticker (R22, R23, R33, R52). -/
structure ControlInv (s : State) : Prop where
  /-- `TXI <= 8` (R52) -/
  txi_le : s.txi.toNat ≤ 8
  /-- in `TXS`, `TXI <= 7` (R52) -/
  txs_txi : s.fsm = .txs → s.txi.toNat ≤ 7
  /-- in `TXR`, `TXI <= 5` (R52) -/
  txr_txi : s.fsm = .txr → s.txi.toNat ≤ 5
  /-- `FSM` and `OP` are a pair R23 lists -/
  pair : legalPair s.fsm s.op = true
  /-- `OP = 0` exactly when `FSM ∈ (IDLE, EXITED)` (R22, R52) -/
  op_none : s.op = .none ↔ (s.fsm = .idle ∨ s.fsm = .exited)
  /-- `TKEN = 1` exactly under `RUN` from the end of `SETTLE` on (R33, R52, R203) -/
  tken_iff : s.tken = true ↔ (s.op = .run ∧ s.fsm ≠ .txs ∧ s.fsm ≠ .settle)
  /-- a period tick is pending only while the ticker is on (R33, R252) -/
  ptick_tken : s.ptick = true → s.tken = true
  /-- while the ticker is on, `PTMR` is between 1 and `T_PERIOD` (R172, R252) -/
  ptmr_range : s.tken = true → 1 ≤ s.ptmr.toNat ∧ s.ptmr.toNat ≤ s.cfg.tPeriod.toNat
  /-- in `RDX` with `OP ≠ READX`, `RAWCNT <= FRAME_LEN` (R52) -/
  rdx_cycle : s.fsm = .rdx → s.op ≠ .readx → s.rawcnt.toNat ≤ Config.frameLen
  /-- in `RDX` with `OP = READX`, `RAWCNT <= ARG <= RAW_CAP` (R52) -/
  rdx_readx : s.fsm = .rdx → s.op = .readx → s.rawcnt.toNat ≤ s.arg.toNat ∧ s.arg.toNat ≤ s.cfg.rawCap
  /-- in `DEC` of a cycle, 47 bytes are in `RAW` (R185) -/
  dec_cycle : s.fsm = .dec → (s.op = .sample ∨ s.op = .run) → s.rawcnt.toNat = Config.frameLen

/-- The outcome registers and the reading (R35, R37, R52, R231, R234). -/
structure OutcomeInv (s : State) : Prop where
  /-- in `FWD` there is a reading, and `RESULT` is (READING, 0, 40) (R208) -/
  fwd_reading : s.fsm = .fwd → s.rdvalid = true ∧ s.result = ⟨.reading, .none, 40⟩
  /-- `ERR ≠ 0` exactly when `KIND = ERROR` (R234) -/
  result_err : s.result.err ≠ .none ↔ s.result.kind = .error
  /-- codes 1, 2 and 6 are never written to `RESULT` (R231) -/
  result_used : s.result.err ≠ .configMissing ∧ s.result.err ≠ .transportOpenFailed ∧ s.result.err ≠ .shortFrame
  /-- codes 1, 2 and 6 are never written to `ERRINFO` (R231) -/
  errinfo_used : s.errinfo.code ≠ .configMissing ∧ s.errinfo.code ≠ .transportOpenFailed ∧ s.errinfo.code ≠ .shortFrame
  /-- `EV.code` and `EV.count` are what `ERRINFO` holds (R37, R237) -/
  ev_errinfo : s.ev.code = s.errinfo.code ∧ s.ev.count = s.errinfo.count
  /-- `RDVALID = 1` implies that `RD[0..9]` are the ten values of one successful decode (R52) -/
  rdvalid_reading : s.rdvalid = true → ∃ p : List Byte, decodePayload s.cfg p = some s.rd

/-- The states a run from reset can reach lie among these (R52). No step from one of them stops (R253). -/
structure Inv (s : State) : Prop where
  buffers : BufferInv s
  control : ControlInv s
  outcome : OutcomeInv s

/-! ### Runs under an environment, and the premises of R283 -/

/-- `S` is the run under the inputs `I`: the environment presents `I k` at step `k` (R7, R8). -/
def Follows (I : Nat → Inputs) (S : Nat → State) : Prop := ∀ k, stepWith (I k) (S k) = .next (S (k + 1))

/-- `FAIR_TICK`: infinitely many steps have `tick = 1`. -/
def FairTick (I : Nat → Inputs) : Prop := ∀ k, ∃ j, k ≤ j ∧ (I j).tick = true

/-- `FAIR_TX`: whenever `tx_valid = 1` continuously, eventually `tx_ready = 1` or `tx_err = 1`. -/
def FairTx (I : Nat → Inputs) (S : Nat → State) : Prop :=
  ∀ k, (∀ j, k ≤ j → txValid (S j) = true) → ∃ j, k ≤ j ∧ ((I j).txReady = true ∨ (I j).txErr = true)

/-- `FAIR_SINK`: whenever `snk_valid = 1` continuously, eventually `snk_ok = 1` or `snk_fail = 1`. -/
def FairSink (I : Nat → Inputs) (S : Nat → State) : Prop :=
  ∀ k, (∀ j, k ≤ j → (S j).fsm = .fwd) → ∃ j, k ≤ j ∧ ((I j).snkOk = true ∨ (I j).snkFail = true)

/-- `FAIR_RXGAP`: the RX adapter does not present `BYTE` for ever. -/
def FairRxGap (I : Nat → Inputs) : Prop := ∀ k, ∃ j, k ≤ j ∧ (I j).rxSt ≠ .byte

/-- `NO_RST`: no step has `rst = 1`. -/
def NoRst (I : Nat → Inputs) : Prop := ∀ k, (I k).rst = false

/-- `NO_STOP`: the host writes no `STOP`. -/
def NoStop (I : Nat → Inputs) : Prop := ∀ k, hostCommand (I k) ≠ some (encode .stop)

/-- `NO_HOST`: the host writes nothing from step `k` on. -/
def NoHostFrom (k : Nat) (I : Nat → Inputs) : Prop := ∀ j, k ≤ j → hostWrites (I j) = false

/-! ### Words for statements about one step -/

/-- No reset and no host write in the coming step; a read may happen. -/
abbrev HostQuiet (s : State) : Prop := s.input.rst = false ∧ hostWrites s.input = false

/-- In the coming step the host writes `w` to word `idx`, and there is no reset. -/
abbrev HostWritesWord (s : State) (idx : BitVec 8) (w : Word) : Prop :=
  s.input.rst = false ∧ hostWrites s.input = true ∧ s.input.hWidx = idx ∧ s.input.hWdata = w

/-- The pre-step state with the step's inputs used up, the event cleared (R237) and the ticker stepped (R252): what a step
in which neither the state machine nor the host writes anything leaves. -/
abbrev ticked (s : State) : State := (startAct s).st

/-- What `complete(OK, 0, c)` of a one-shot operation leaves on top of `t` (R235), written out. -/
def finishedOk (s : State) (c : Byte) (t : State) : State :=
  { t with result := ⟨.ok, .none, c⟩, ip := s.ip ||| 0x01, fsm := .idle, op := .none }

/-- What `raise E(c)` leaves on top of `t` (R236, R235), written out: under `RUN` the loop goes on at `LIVE`. -/
def raised (s : State) (e : ErrCode) (c : Byte) (t : State) : State :=
  { t with result := ⟨.error, e, c⟩, errinfo := ⟨e, c⟩, ev := ⟨true, e, c⟩, ip := s.ip ||| 0x09,
           fsm := if s.op = .run then .live else .idle, op := if s.op = .run then .run else .none }

/-- What `complete(READING, 0, 40)` with the ten registers written leaves on top of `t` (R139, R185), written out. -/
def readingTaken (s : State) (r : Vector Word 10) (t : State) : State :=
  { t with rd := r, rdvalid := true, result := ⟨.reading, .none, 40⟩, ip := s.ip ||| 0x03,
           fsm := if s.op = .run then .fwd else .idle, op := if s.op = .run then .run else .none }

/-- A state without its interrupt registers. -/
def maskIrq (t : State) : State := { t with ie := 0, ip := 0 }

/-- An outcome without the interrupt registers of its next state. -/
def maskOutcome : Host.Outcome State Fault Refusal → Host.Outcome State Fault Refusal
  | .next t => .next (maskIrq t)
  | .fault f => .fault f
  | .refused r => .refused r

/-- The exact value of the magnitude of a finite binary32 pattern (R134): `mag(w)`, a rational number. -/
def mag (w : Word) : ℚ := (magScaled w : ℚ) / 2 ^ 149

end Sys2Proof.Safety
end

