-- ==== Sys2Proof/Certificates/Slice0/Obligations.lean ====
section
/-! DEFINITION. The statements for the provers, one `def Obligations.<Name> : Prop` each, in the order of OBLIGATIONS.json. A
statement about one step writes `ticked s` for the pre-step state with its inputs used up, the event cleared (R237) and the
period ticker stepped (R252); `TickerStepsByItself` says what that is. -/

open Sys2Proof Sys2Proof.Machine Sys2Proof.Safety

/-! ### Reset and the whole machine -/

/-- R270, R51: after a step with `rst = 1`, whatever the state and the other inputs, every element has its reset value, every
register but `DEADLINE` reads 0, and every output is 0. -/
def Obligations.ResetClearsEveryElement : Prop :=
  ∀ s : State, s.input.rst = true → ∃ t, step s = .next t ∧
    t.fsm = .idle ∧ t.op = .none ∧ t.arg = 0 ∧ t.txi = 0 ∧ (∀ i, t.raw i = 0) ∧ t.rawcnt = 0 ∧ (∀ i, t.uns i = 0) ∧
    t.unscnt = 0 ∧ (∀ i : Fin 10, t.rd[i] = 0) ∧ t.rdvalid = false ∧ t.deadline = s.cfg.tDeadline ∧ t.dlcnt = 0 ∧
    t.tmr = 0 ∧ t.ptmr = 0 ∧ t.tken = false ∧ t.ptick = false ∧ t.exitcode = false ∧ t.result = ⟨.none, .none, 0⟩ ∧
    t.errinfo = ⟨.none, 0⟩ ∧ t.ev = ⟨false, .none, 0⟩ ∧ t.ie = 0 ∧ t.ip = 0 ∧ t.cfg = s.cfg ∧
    (∀ idx : BitVec 8, regRead t idx = if idx = 0x04 then s.cfg.tDeadline else 0) ∧
    (∀ i : Inputs, (out t i).txValid = false ∧ (out t i).txData = 0 ∧ (out t i).rxTake = false ∧
      (out t i).snkValid = false ∧ (out t i).alive = false ∧ (out t i).evValid = false ∧ (out t i).irq = false ∧
      (out t i).snkData = 0 ∧ (out t i).evCode = 0 ∧ (out t i).evCount = 0)

/-- The invariants hold at the reset state of the model (R270, at the default parameters of R5). -/
def Obligations.ResetStateMeetsTheInvariants : Prop := Inv State.reset

/-- R52 and the invariants R22, R33, R172, R208, R231, R234 and R237 add: every step keeps them. -/
def Obligations.EveryStepKeepsTheInvariants : Prop := ∀ s t : State, Inv s → step s = .next t → Inv t

/-- R253: the step is total; from every state that meets the invariants, on every input, there is a next state. -/
def Obligations.StepIsTotal : Prop := ∀ s : State, Inv s → ∃ t, step s = .next t

/-- R252 with R237 and R9: what `ticked s` is, and that a step which is no reset, no accepted `STOP` and not the last step
of `SETTLE` leaves the ticker's registers so. -/
def Obligations.TickerStepsByItself : Prop :=
  (∀ s : State, ticked s =
    { s.advance with
      ev := { s.ev with valid := false }
      ptmr := if s.tken = true ∧ s.input.tick = true then
          (if s.ptmr.toNat ≤ 1 then s.cfg.tPeriod else s.ptmr - 1) else s.ptmr
      ptick := decide ((s.tken = true ∧ s.input.tick = true ∧ s.ptmr.toNat ≤ 1) ∨
        (s.ptick = true ∧ ¬ s.fsm = .waitp)) }) ∧
  (∀ s t : State, step s = .next t → s.input.rst = false → ¬ (s.op = .run ∧ HostWritesWord s 0 9) →
    ¬ (s.fsm = .settle ∧ s.tmr = 0) → t.ptmr = (ticked s).ptmr ∧ t.ptick = (ticked s).ptick)

/-- R241: `irq` is `(IP AND IE) ≠ 0`, and FDTR never reads `IP` or `IE`: two states that differ only there step alike but for
those two registers, and show the same outputs but for `irq` and what a host read shows. -/
def Obligations.InterruptRegistersDoNotInterfere : Prop :=
  (∀ (s : State) (i : Inputs), (out s i).irq = true ↔ ∃ k : Fin 7, s.ip[k] = true ∧ s.ie[k] = true) ∧
  ∀ (s : State) (ie ip : BitVec 7),
    maskOutcome (step { s with ie := ie, ip := ip }) = maskOutcome (step s) ∧
    ∀ i : Inputs, { out { s with ie := ie, ip := ip } i with irq := false, hRdata := 0 } =
      { out s i with irq := false, hRdata := 0 }

/-- R96, R95: operations never overlap. A step of a busy FDTR without `rst` keeps the operation in progress or ends it, and
it ends only in `IDLE` or `EXITED`. -/
def Obligations.OneOperationAtATime : Prop :=
  ∀ s t : State, busy s = true → s.input.rst = false → step s = .next t →
    (t.op = s.op ∨ t.op = .none) ∧ (t.op = .none → t.fsm = .idle ∨ t.fsm = .exited)

/-- R212: `EXITED` is terminal. Without `rst` every step stays in it; only `IE` and `IP` can change, as the host writes them
or is rejected; the ticker is off, the outputs are inactive, reads and `irq` work. Only `rst` leaves it. -/
def Obligations.ExitedIsTerminal : Prop :=
  ∀ s : State, ControlInv s → s.fsm = .exited →
    s.tken = false ∧
    (s.input.rst = false → ∃ t, step s = .next t ∧
      { t with ie := s.ie, ip := s.ip } = { s.advance with ev := { s.ev with valid := false } } ∧
      (∀ w, HostWritesWord s 0x00 w → t.ip = s.ip ||| 0x40 ∧ t.ie = s.ie) ∧
      (∀ idx w, HostWritesWord s idx w → idleGated s.cfg.rawCap idx = true → t.ip = s.ip ||| 0x40 ∧ t.ie = s.ie) ∧
      (∀ w, HostWritesWord s 0x05 w → t.ip = s.ip ∧ t.ie = w.setWidth 7) ∧
      (∀ w, HostWritesWord s 0x06 w → t.ip = s.ip &&& ~~~(w.setWidth 7) ∧ t.ie = s.ie) ∧
      (HostQuiet s → t.ip = s.ip ∧ t.ie = s.ie)) ∧
    (s.input.rst = true → ∃ t, step s = .next t ∧ t.fsm = .idle) ∧
    ∀ i : Inputs, (out s i).txValid = false ∧ (out s i).snkValid = false ∧ (out s i).alive = false ∧
      (out s i).rxTake = false ∧ (out s i).irq = decide (s.ip &&& s.ie ≠ 0) ∧
      (i.hSel = true → i.hWe = false → (out s i).hRdata = regRead s i.hWidx)

/-- R249, R34: FDTR enters `EXITED` with code 0 by an accepted `STOP` and with code 1 by `SENSOR_START_FAILED`, and in no
other way. -/
def Obligations.ExitCodesAreZeroForStopAndOneForStartFailure : Prop :=
  (∀ s t : State, step s = .next t → s.fsm ≠ .exited → t.fsm = .exited →
    (t.exitcode = false ∧ s.op = .run ∧ HostWritesWord s 0x00 0x00000009) ∨
    (t.exitcode = true ∧ s.fsm = .txs ∧ s.input.txErr = true ∧ t.result = ⟨.error, .sensorStartFailed, s.txi.setWidth 8⟩)) ∧
  (∀ s : State, s.op = .run → HostWritesWord s 0x00 0x00000009 →
    ∃ t, step s = .next t ∧ t.fsm = .exited ∧ t.exitcode = false) ∧
  (∀ s : State, ControlInv s → s.fsm = .txs → s.input.txErr = true → s.input.rst = false →
    ¬ (s.op = .run ∧ HostWritesWord s 0x00 0x00000009) →
    ∃ t, step s = .next t ∧ t.fsm = .exited ∧ t.exitcode = true)

/-- R28: the ten reading registers change only in a `DEC` step that decodes successfully, all at once, with `RDVALID` set. -/
def Obligations.ReadingChangesOnlyByASuccessfulDecode : Prop :=
  ∀ s t : State, step s = .next t → s.input.rst = false → t.rd ≠ s.rd →
    s.fsm = .dec ∧ s.op ≠ .unstuff ∧ t.rdvalid = true ∧ t.result = ⟨.reading, .none, 40⟩ ∧
    ∃ p : List Byte, decodePayload s.cfg p = some t.rd

/-- R36, R37, R237: an event is presented exactly after a step that wrote `ERRINFO`, with the same code and count, and that
step set `IP.ERROR`; otherwise `ERRINFO` and the event's code and count keep their values. -/
def Obligations.EventsMirrorErrinfo : Prop :=
  ∀ s t : State, step s = .next t → s.input.rst = false →
    (t.ev.valid = true ∧ t.errinfo = ⟨t.ev.code, t.ev.count⟩ ∧ t.ip &&& 0x08 = 0x08) ∨
    (t.ev.valid = false ∧ t.errinfo = s.errinfo ∧ t.ev.code = s.ev.code ∧ t.ev.count = s.ev.count)

/-- R30, R68, R287: `DEADLINE` changes only by a host write to it in `IDLE`; the parameters never change. -/
def Obligations.DeadlineChangesOnlyByTheHostInIdle : Prop :=
  ∀ s t : State, step s = .next t →
    t.cfg = s.cfg ∧
    (s.input.rst = false → t.deadline ≠ s.deadline → s.fsm = .idle ∧ HostWritesWord s 0x04 t.deadline)

/-! ### The command word -/

/-- A step in which the host writes a word that the decoder reads as an operation runs that operation (R67, R92). -/
def Obligations.StepRunsTheDecodedCommand : Prop :=
  ∀ (s : State) (w : Word) (i : Instr), HostWritesWord s 0x00 w → decode s.cfg.rawCap w = .ok i → step s = exec i s

/-- Words of R92 and 95_test_vectors.md 2.4, written out, and what they stand for when `RAW_CAP` is 64. -/
def Obligations.CommandWordsDecodeAsListed : Prop :=
  decode 64 0x00000001 = .ok .txstart ∧ decode 64 0x00000002 = .ok .txreq ∧ decode 64 0x00000003 = .ok .drain ∧
  decode 64 0x00002F04 = .ok (.readx 47) ∧ decode 64 0x00000005 = .ok .unstuff ∧
  decode 64 0x00000506 = .ok (.decode 5) ∧ decode 64 0x00000007 = .ok .sample ∧ decode 64 0x00000008 = .ok .run ∧
  decode 64 0x00000009 = .ok .stop ∧ decode 64 0x00004104 = .error .lengthAboveCap ∧
  decode 64 0x00000105 = .error .strayOperand ∧ decode 64 0x0000000A = .error .opcode ∧
  decode 64 0x00010001 = .error .zeroBits

/-- Decoding the encoding of any well-formed operation gives it back, with every operand (R90 to R93). -/
def Obligations.EncodeThenDecodeIsIdentity : Prop :=
  ∀ (cap : Nat) (i : Instr), i.wellFormed cap = true → decode cap (encode i) = .ok i

/-- Each word has one meaning: a word the decoder accepts is the encoding of a well-formed operation (R90 to R93). -/
def Obligations.DecodeThenEncodeIsIdentity : Prop :=
  ∀ (cap : Nat) (w : Word) (i : Instr), decode cap w = .ok i → i.wellFormed cap = true ∧ encode i = w

/-- R93: which words are well formed; and the list for `RAW_CAP = 64`. -/
def Obligations.WellFormedWordsAreExactlyThese : Prop :=
  (∀ (cap : Nat) (w : Word), (∃ i, decode cap w = .ok i) ↔
    (w.extractLsb' 4 4 = 0 ∧ w.extractLsb' 16 16 = 0 ∧ 1 ≤ (w.extractLsb' 0 4).toNat ∧ (w.extractLsb' 0 4).toNat ≤ 9 ∧
      ((w.extractLsb' 0 4).toNat ≠ 4 → (w.extractLsb' 0 4).toNat ≠ 6 → w.extractLsb' 8 8 = 0) ∧
      ((w.extractLsb' 0 4).toNat = 4 → (w.extractLsb' 8 8).toNat ≤ cap))) ∧
  (∀ w : Word, (∃ i, decode 64 w = .ok i) ↔
    (w.toNat ∈ [1, 2, 3, 5, 7, 8, 9] ∨ (∃ n, n ≤ 64 ∧ w.toNat = 4 + 0x100 * n) ∨
      (∃ n, n ≤ 255 ∧ w.toNat = 6 + 0x100 * n)))

/-- R94: which words are reserved; and that a write of one is rejected in every state: the step is the one without the
write, but for `IP.REJ`. -/
def Obligations.ReservedWordsAreRejected : Prop :=
  (∀ (cap : Nat) (w : Word), (∃ e, decode cap w = .error e) ↔
    ((w.extractLsb' 0 4).toNat = 0 ∨ 10 ≤ (w.extractLsb' 0 4).toNat ∨ w.extractLsb' 4 4 ≠ 0 ∨ w.extractLsb' 16 16 ≠ 0 ∨
      ((w.extractLsb' 0 4).toNat ≠ 4 ∧ (w.extractLsb' 0 4).toNat ≠ 6 ∧ w.extractLsb' 8 8 ≠ 0) ∨
      ((w.extractLsb' 0 4).toNat = 4 ∧ cap < (w.extractLsb' 8 8).toNat))) ∧
  (∀ (s t : State) (w : Word), HostWritesWord s 0x00 w → (∃ e, decode s.cfg.rawCap w = .error e) →
    quietStep s = .next t → step s = .next { t with ip := t.ip ||| 0x40 })

/-! ### Commands -/

/-- R97: the accept sequences of opcodes 1 to 8, from `IDLE` with the ticker off (which `ControlInv` says of `IDLE`); every
other element keeps its value, but for the event that every step clears (R237). -/
def Obligations.AcceptSequencesStartTheOperation : Prop :=
  ∀ s : State, s.fsm = .idle → s.tken = false →
    let t : State := { s.advance with ev := { s.ev with valid := false }, result := ⟨.none, .none, 0⟩ }
    exec .txstart s = .next { t with op := .txstart, arg := 0, txi := 0, fsm := .txs } ∧
    exec .txreq s = .next { t with op := .txreq, arg := 0, txi := 0, fsm := .txr } ∧
    exec .drain s = .next { t with op := .drain, arg := 0, fsm := .drn } ∧
    (∀ n : Byte, n.toNat ≤ s.cfg.rawCap → exec (.readx n) s =
      .next { t with op := .readx, arg := n, rawcnt := 0, dlcnt := s.deadline, fsm := .rdx }) ∧
    exec .unstuff s = .next { t with op := .unstuff, arg := 0, fsm := .dec } ∧
    (∀ n : Byte, exec (.decode n) s = .next { t with op := .decode, arg := n, fsm := .dec }) ∧
    exec .sample s =
      .next { t with op := .sample, arg := 0, rawcnt := 0, unscnt := 0, rdvalid := false, fsm := .drn } ∧
    exec .run s = .next { t with op := .run, arg := 0, txi := 0, fsm := .txs }

/-- R211: an accepted `STOP` leaves the pre-step state with the listed changes only; otherwise it is rejected. -/
def Obligations.StopDiscardsTheStepAndExits : Prop :=
  (∀ s : State, s.op = .run → exec .stop s =
    .next { s.advance with fsm := .exited, exitcode := false, op := .none, tken := false, ptick := false,
                           ev := { s.ev with valid := false }, ip := s.ip ||| 0x20 }) ∧
  (∀ s t : State, s.op ≠ .run → quietStep s = .next t → exec .stop s = .next { t with ip := t.ip ||| 0x40 })

/-- R95: when a well-formed command is accepted (its operation is then in progress, and no pending bit is set) and when it
is rejected (the step is then the one without the write, but for `IP.REJ`), decided on the pre-step state. -/
def Obligations.CommandsAreAcceptedOrRejected : Prop :=
  ∀ (s : State) (i : Instr), i.wellFormed s.cfg.rawCap = true →
    (i ≠ .stop → s.fsm = .idle → ∃ t, exec i s = .next t ∧ t.fsm ≠ .idle ∧ t.ip = s.ip ∧
      (t.op.code = (encode i).extractLsb' 0 4)) ∧
    (i ≠ .stop → s.fsm ≠ .idle → ∀ t, quietStep s = .next t → exec i s = .next { t with ip := t.ip ||| 0x40 }) ∧
    (i = .stop → s.op = .run → ∃ t, exec i s = .next t ∧ t.fsm = .exited ∧ t.op = .none ∧ t.ip = s.ip ||| 0x20) ∧
    (i = .stop → s.op ≠ .run → ∀ t, quietStep s = .next t → exec i s = .next { t with ip := t.ip ||| 0x40 })

/-! ### The host register space -/

/-- R63: a read has no side effect; `h_rdata` is the read value of the pre-step state, and 0 in a step without a read. -/
def Obligations.HostReadsHaveNoSideEffect : Prop :=
  ∀ (s : State) (i : Inputs),
    (∀ idx : BitVec 8, stepWith { i with hSel := true, hWe := false, hWidx := idx } s =
      stepWith { i with hSel := false } s) ∧
    (i.hSel = true → i.hWe = false → (out s i).hRdata = regRead s i.hWidx) ∧
    (i.hSel = false ∨ i.hWe = true → (out s i).hRdata = 0) ∧
    regRead s 0x00 = 0 ∧
    (∀ idx : BitVec 8, (idx.toNat = 0x09 ∨ (0x0D ≤ idx.toNat ∧ idx.toNat ≤ 0x0F) ∨
      (0x1A ≤ idx.toNat ∧ idx.toNat ≤ 0x3F) ∨ (0x40 + s.cfg.rawCap ≤ idx.toNat ∧ idx.toNat ≤ 0x7F) ∨
      0x80 + s.cfg.rawCap ≤ idx.toNat) → regRead s idx = 0)

/-- R41: the read values of the register map, field by field, with the codes of R234 (KIND) and R230 (errors) spelled out;
`STATUS` is `StatusShowsTheState`. -/
def Obligations.RegistersReadAsTheMapSays : Prop :=
  ∀ s : State,
    let errors : List (ErrCode × Nat) :=
      [(.none, 0), (.configMissing, 1), (.transportOpenFailed, 2), (.sensorStartFailed, 3), (.requestFailed, 4),
       (.timeout, 5), (.shortFrame, 6), (.malformedPayload, 7), (.ioError, 8), (.streamClosed, 9), (.forwardFailed, 10)]
    ((s.result.kind, ((regRead s 0x02).extractLsb' 0 3).toNat) ∈
        [(Kind.none, 0), (Kind.ok, 1), (Kind.reading, 2), (Kind.nodata, 3), (Kind.error, 4)] ∧
      (s.result.err, ((regRead s 0x02).extractLsb' 3 5).toNat) ∈ errors ∧
      (regRead s 0x02).extractLsb' 8 8 = s.result.count ∧ (regRead s 0x02).extractLsb' 16 16 = 0) ∧
    ((s.errinfo.code, ((regRead s 0x03).extractLsb' 0 5).toNat) ∈ errors ∧ (regRead s 0x03).extractLsb' 5 3 = 0 ∧
      (regRead s 0x03).extractLsb' 8 8 = s.errinfo.count ∧ (regRead s 0x03).extractLsb' 16 16 = 0) ∧
    regRead s 0x04 = s.deadline ∧ (regRead s 0x05).toNat = s.ie.toNat ∧ (regRead s 0x06).toNat = s.ip.toNat ∧
    (regRead s 0x07).toNat = s.rawcnt.toNat ∧ (regRead s 0x08).toNat = s.unscnt.toNat ∧
    regRead s 0x0A = s.dlcnt ∧ regRead s 0x0B = s.tmr ∧ regRead s 0x0C = s.ptmr ∧
    (∀ i : Fin 10, regRead s (BitVec.ofNat 8 (0x10 + i.val)) = s.rd[i]) ∧
    (∀ i, i < s.cfg.rawCap → (regRead s (BitVec.ofNat 8 (0x40 + i))).toNat = (s.raw i).toNat ∧
      (regRead s (BitVec.ofNat 8 (0x80 + i))).toNat = (s.uns i).toNat)

/-- R39: the fields of `STATUS`, and the bits between them, with the codes of R21 (FSM) and R22 (OP) spelled out, and BUSY as
R42 says. -/
def Obligations.StatusShowsTheState : Prop :=
  ∀ s : State, regRead s 0x01 = statusWord s ∧
    (s.fsm, ((statusWord s).extractLsb' 0 4).toNat) ∈
      [(Fsm.idle, 0), (Fsm.txs, 1), (Fsm.txr, 2), (Fsm.drn, 3), (Fsm.rdx, 4), (Fsm.dec, 5), (Fsm.settle, 6),
       (Fsm.waitp, 7), (Fsm.fwd, 8), (Fsm.cool, 9), (Fsm.live, 10), (Fsm.exited, 11)] ∧
    (s.op, ((statusWord s).extractLsb' 4 4).toNat) ∈
      [(Operation.none, 0), (Operation.txstart, 1), (Operation.txreq, 2), (Operation.drain, 3), (Operation.readx, 4),
       (Operation.unstuff, 5), (Operation.decode, 6), (Operation.sample, 7), (Operation.run, 8)] ∧
    (statusWord s).getLsbD 8 = decide (s.fsm ≠ .idle ∧ s.fsm ≠ .exited) ∧ (statusWord s).getLsbD 9 = s.rdvalid ∧ (statusWord s).getLsbD 10 = s.tken ∧
    (statusWord s).getLsbD 11 = s.ptick ∧ (statusWord s).getLsbD 12 = decide (s.fsm = .exited) ∧
    (statusWord s).getLsbD 13 = s.exitcode ∧ (statusWord s).extractLsb' 14 2 = 0 ∧
    (statusWord s).extractLsb' 16 4 = s.txi ∧ (statusWord s).extractLsb' 20 4 = 0 ∧ (statusWord s).extractLsb' 24 8 = s.arg

/-- R66: an idle-gated write outside `IDLE` changes nothing but `IP.REJ`. -/
def Obligations.IdleGatedWritesAreRejectedWhenNotIdle : Prop :=
  ∀ (s t : State) (idx : BitVec 8) (w : Word), HostWritesWord s idx w → s.fsm ≠ .idle →
    (idx = 0x04 ∨ idx = 0x07 ∨ idx = 0x08 ∨ (0x40 ≤ idx.toNat ∧ idx.toNat < 0x40 + s.cfg.rawCap) ∨
      (0x80 ≤ idx.toNat ∧ idx.toNat < 0x80 + s.cfg.rawCap)) →
    quietStep s = .next t → step s = .next { t with ip := t.ip ||| 0x40 }

/-- R23, R248: the step of `IDLE` without a write changes nothing, but for the event that every step clears (R237). R68, R69:
a write to `DEADLINE` then stores the word, a write to a count the word clamped to `RAW_CAP`; nothing else changes. -/
def Obligations.IdleWritesSetDeadlineAndCounts : Prop :=
  ∀ (s : State) (w : Word), s.fsm = .idle → s.tken = false →
    let t : State := { s.advance with ev := { s.ev with valid := false } }
    (HostQuiet s → step s = .next t) ∧
    (HostWritesWord s 0x04 w → step s = .next { t with deadline := w }) ∧
    (HostWritesWord s 0x07 w → step s = .next { t with rawcnt := BitVec.ofNat 8 (min w.toNat s.cfg.rawCap) }) ∧
    (HostWritesWord s 0x08 w → step s = .next { t with unscnt := BitVec.ofNat 8 (min w.toNat s.cfg.rawCap) })

/-- R70, R65: in `IDLE` a write to a cell of `RAW` or `UNS` stores `h_wdata[7:0]` there: the cell's word reads it back, every
other word reads as before, and no other element changes. -/
def Obligations.BufferCellWritesReadBack : Prop :=
  ∀ (s : State) (idx : BitVec 8) (w : Word), s.fsm = .idle → s.tken = false → s.mem.wf → HostWritesWord s idx w →
    ((0x40 ≤ idx.toNat ∧ idx.toNat < 0x40 + s.cfg.rawCap) ∨ (0x80 ≤ idx.toNat ∧ idx.toNat < 0x80 + s.cfg.rawCap)) →
    ∃ t, step s = .next t ∧ regRead t idx = (w.setWidth 8).setWidth 32 ∧
      (∀ a, a ≠ idx.toNat → t.mem.read a = s.mem.read a) ∧
      { t with mem := s.mem } = { s.advance with ev := { s.ev with valid := false } }

/-- R71: a write to `IE` takes effect in every state, beside whatever the state machine does. -/
def Obligations.InterruptEnableWritesAlwaysWork : Prop :=
  ∀ (s t : State) (w : Word), HostWritesWord s 0x05 w → quietStep s = .next t →
    step s = .next { t with ie := w.setWidth 7 }

/-- R242, R72: a write to `IP` clears the bits written as one, except those the same step sets: `hwset` is what the step
leaves in an `IP` that held nothing. -/
def Obligations.InterruptClearLosesToHardwareSet : Prop :=
  ∀ (s q : State) (w : Word), HostWritesWord s 0x06 w → quietStep { s with ip := 0 } = .next q →
    step s = .next { q with ip := (s.ip &&& ~~~(w.setWidth 7)) ||| q.ip }

/-- R73: a write to a read-only or unmapped word changes nothing, and is not rejected. -/
def Obligations.OtherWritesAreIgnored : Prop :=
  ∀ (s : State) (idx : BitVec 8) (w : Word), HostWritesWord s idx w →
    ((0x01 ≤ idx.toNat ∧ idx.toNat ≤ 0x03) ∨ (0x09 ≤ idx.toNat ∧ idx.toNat ≤ 0x3F) ∨
      (0x40 + s.cfg.rawCap ≤ idx.toNat ∧ idx.toNat ≤ 0x7F) ∨ 0x80 + s.cfg.rawCap ≤ idx.toNat) →
    step s = quietStep s

/-! ### Transmitting, draining, reading -/

/-- R124: the step of `TXS` and `TXR`, with the outputs of R46. -/
def Obligations.TransmitStepSendsTheCommandFrames : Prop :=
  ∀ s : State, HostQuiet s →
    (s.fsm = .txs → (s.op = .txstart ∨ s.op = .run) → (h : s.txi.toNat < 8) →
      (out s s.input).txValid = true ∧
      (out s s.input).txData = [0x7E, 0x00, 0x00, 0x02, 0x01, 0x03, 0xF9, 0x7E][s.txi.toNat]'h ∧
      sentInStep s = (if s.input.txReady = true ∧ s.input.txErr = false then [(out s s.input).txData] else []) ∧
      (s.input.txErr = true → step s = .next { ticked s with
        result := ⟨.error, .sensorStartFailed, s.txi.setWidth 8⟩, errinfo := ⟨.sensorStartFailed, s.txi.setWidth 8⟩,
        ev := ⟨true, .sensorStartFailed, s.txi.setWidth 8⟩, ip := s.ip ||| 0x29, fsm := .exited, exitcode := true,
        op := .none, tken := false }) ∧
      (s.input.txErr = false → s.input.txReady = true → s.txi.toNat < 7 →
        step s = .next { ticked s with txi := s.txi + 1 }) ∧
      (s.input.txErr = false → s.input.txReady = true → s.txi.toNat = 7 → s.op = .run →
        step s = .next { ticked s with txi := 8, tmr := s.cfg.tSettle, fsm := .settle }) ∧
      (s.input.txErr = false → s.input.txReady = true → s.txi.toNat = 7 → s.op = .txstart →
        step s = .next (finishedOk s 8 { ticked s with txi := 8 })) ∧
      (s.input.txErr = false → s.input.txReady = false → step s = .next (ticked s))) ∧
    (s.fsm = .txr → (s.op = .txreq ∨ s.op = .sample ∨ s.op = .run) → (h : s.txi.toNat < 6) →
      (out s s.input).txValid = true ∧
      (out s s.input).txData = [0x7E, 0x00, 0x03, 0x00, 0xFC, 0x7E][s.txi.toNat]'h ∧
      sentInStep s = (if s.input.txReady = true ∧ s.input.txErr = false then [(out s s.input).txData] else []) ∧
      (s.input.txErr = true → step s = .next (raised s .requestFailed (s.txi.setWidth 8) (ticked s))) ∧
      (s.input.txErr = false → s.input.txReady = true → s.txi.toNat < 5 →
        step s = .next { ticked s with txi := s.txi + 1 }) ∧
      (s.input.txErr = false → s.input.txReady = true → s.txi.toNat = 5 → s.op = .txreq →
        step s = .next (finishedOk s 6 { ticked s with txi := 6 })) ∧
      (s.input.txErr = false → s.input.txReady = true → s.txi.toNat = 5 → s.op ≠ .txreq →
        step s = .next { ticked s with txi := 6, rawcnt := 0, dlcnt := s.deadline, fsm := .rdx }) ∧
      (s.input.txErr = false → s.input.txReady = false → step s = .next (ticked s)))

/-- R168: the step of `DRN`, with `rx_take`. -/
def Obligations.DrainStepDiscardsWhatIsPresented : Prop :=
  ∀ s : State, HostQuiet s → s.fsm = .drn → (s.op = .drain ∨ s.op = .sample ∨ s.op = .run) →
    ((out s s.input).rxTake = true ↔ s.input.rxSt ≠ .none) ∧
    (s.input.rxSt = .byte → step s = .next (ticked s)) ∧
    (s.input.rxSt ≠ .byte → s.op = .drain → step s = .next (finishedOk s 0 (ticked s))) ∧
    (s.input.rxSt ≠ .byte → s.op ≠ .drain → step s = .next { ticked s with txi := 0, fsm := .txr })

/-- R162, R163: the six cases of the step of `RDX`, in their order, with `rx_take`. The store of case 5 needs a cell that
exists (`ControlInv`, `BufferInv`: R172). `SHORT_FRAME` (case 1) is absent: its condition is never true (R184). -/
def Obligations.ReadStepHasSixCases : Prop :=
  ∀ s : State, HostQuiet s → s.fsm = .rdx → (s.op = .readx ∨ s.op = .sample ∨ s.op = .run) →
    let len : Byte := if s.op = .readx then s.arg else 47
    let dl : Word := if s.input.tick = true then s.dlcnt - 1 else s.dlcnt
    ((out s s.input).rxTake = true ↔ (s.rawcnt ≠ len ∧ s.dlcnt ≠ 0 ∧ s.input.rxSt ≠ .none)) ∧
    (s.rawcnt = len → s.op = .readx → step s = .next (finishedOk s s.rawcnt (ticked s))) ∧
    (s.rawcnt = len → s.op ≠ .readx → step s = .next { ticked s with fsm := .dec }) ∧
    (s.rawcnt ≠ len → s.dlcnt = 0 → step s = .next (raised s .timeout s.rawcnt (ticked s))) ∧
    (s.rawcnt ≠ len → s.dlcnt ≠ 0 → s.input.rxSt = .err → step s = .next (raised s .ioError s.rawcnt (ticked s))) ∧
    (s.rawcnt ≠ len → s.dlcnt ≠ 0 → s.input.rxSt = .eos → s.op = .readx → step s =
      .next { ticked s with result := ⟨.error, .streamClosed, s.rawcnt⟩, ip := s.ip ||| 0x01, fsm := .idle,
                            op := .none }) ∧
    (s.rawcnt ≠ len → s.dlcnt ≠ 0 → s.input.rxSt = .eos → s.op = .sample → step s =
      .next { ticked s with result := ⟨.nodata, .none, s.rawcnt⟩, ip := s.ip ||| 0x05, fsm := .idle, op := .none }) ∧
    (s.rawcnt ≠ len → s.dlcnt ≠ 0 → s.input.rxSt = .eos → s.op = .run → step s =
      .next { ticked s with result := ⟨.nodata, .none, s.rawcnt⟩, ip := s.ip ||| 0x05, tmr := s.cfg.tCooldown,
                            fsm := .cool }) ∧
    (s.rawcnt ≠ len → s.dlcnt ≠ 0 → s.input.rxSt = .byte → s.rawcnt.toNat < s.cfg.rawCap → s.mem.wf →
      ∃ t, step s = .next t ∧ t.raw s.rawcnt.toNat = s.input.rxData ∧
        (∀ a, a ≠ 0x40 + s.rawcnt.toNat → t.mem.read a = s.mem.read a) ∧
        { t with mem := s.mem } = { ticked s with rawcnt := s.rawcnt + 1, dlcnt := dl }) ∧
    (s.rawcnt ≠ len → s.dlcnt ≠ 0 → s.input.rxSt = .none → step s = .next { ticked s with dlcnt := dl })

/-! ### Unstuffing and decoding -/

/-- R128: what `stuff` is, that `unstuff(stuff(P)) = P` for every list of bytes, and that the converse fails. -/
def Obligations.UnstuffUndoesStuff : Prop :=
  (∀ (b : Byte) (p : List Byte), stuff [] = [] ∧ stuff (b :: p) =
    (if b = 0x7E then [0x7D, 0x5E] else if b = 0x7D then [0x7D, 0x5D] else if b = 0x11 then [0x7D, 0x31]
      else if b = 0x13 then [0x7D, 0x33] else [b]) ++ stuff p) ∧
  (∀ p : List Byte, unstuff (stuff p) = p) ∧
  (∃ l : List Byte, stuff (unstuff l) ≠ l)

/-- R125, R105, R126 (b), (c): a clean buffer is unchanged, the output is never longer than the input, the four pairs are
replaced and their output is not scanned again, and an unlisted pair is copied. -/
def Obligations.UnstuffIsASinglePass : Prop :=
  (∀ l : List Byte, (0x7D : Byte) ∉ l → unstuff l = l) ∧ (∀ l : List Byte, (unstuff l).length ≤ l.length) ∧
  (∀ p t : List Byte, (0x7D : Byte) ∉ p →
    unstuff (p ++ 0x7D :: 0x5E :: t) = p ++ 0x7E :: unstuff t ∧
    unstuff (p ++ 0x7D :: 0x5D :: t) = p ++ 0x7D :: unstuff t ∧
    unstuff (p ++ 0x7D :: 0x31 :: t) = p ++ 0x11 :: unstuff t ∧
    unstuff (p ++ 0x7D :: 0x33 :: t) = p ++ 0x13 :: unstuff t) ∧
  (∀ (p t : List Byte) (c : Byte), (0x7D : Byte) ∉ p → c ≠ 0x5E → c ≠ 0x5D → c ≠ 0x31 → c ≠ 0x33 →
    unstuff (p ++ 0x7D :: c :: t) = p ++ 0x7D :: unstuff (c :: t)) ∧
  (∀ p : List Byte, (0x7D : Byte) ∉ p → unstuff (p ++ [0x7D]) = p ++ [0x7D])

/-- R133: `be32` is `b0 * 2^24 + b1 * 2^16 + b2 * 2^8 + b3`. -/
def Obligations.FieldsAreBigEndian : Prop :=
  ∀ b0 b1 b2 b3 : Byte, (be32 b0 b1 b2 b3).toNat =
    b0.toNat * 2 ^ 24 + b1.toNat * 2 ^ 16 + b2.toNat * 2 ^ 8 + b3.toNat

/-- R131: `decode` fails as a whole with fewer than 40 bytes; otherwise field `i` is the rounded big-endian word of bytes
`4i` to `4i + 3`, and only the first 40 bytes matter. -/
def Obligations.DecodeTakesTenFieldsOrNone : Prop :=
  ∀ (cfg : Config.Params) (p : List Byte),
    (p.length < 40 → decodePayload cfg p = none) ∧
    (40 ≤ p.length → decodePayload cfg p = decodePayload cfg (p.take 40) ∧
      ∃ r : Vector Word 10, decodePayload cfg p = some r ∧ ∀ i : Fin 10,
        r[i] = round2 cfg (be32 (p.getD (4 * i) 0) (p.getD (4 * i + 1) 0) (p.getD (4 * i + 2) 0) (p.getD (4 * i + 3) 0)))

/-- R136: for a finite pattern `w`, with `n = floor(100 * mag(w) + 1/2)`, the default `ROUND2` is the finite pattern of the
sign of `w` whose magnitude is nearest to `n / 100`, a tie going to the even significand; NaN and infinities pass through. -/
def Obligations.RoundingIsNearestHundredthThenNearestBinary32 : Prop :=
  (∀ w : Word, w.extractLsb' 23 8 = 255 → round2Default w = w) ∧
  (∀ w : Word, w.extractLsb' 23 8 ≠ 255 →
    (hundredths w : ℤ) = ⌊100 * mag w + 1 / 2⌋ ∧
    (round2Default w).getLsbD 31 = w.getLsbD 31 ∧ (round2Default w).extractLsb' 23 8 ≠ 255 ∧
    ∀ p : Word, p.extractLsb' 23 8 ≠ 255 →
      |mag (round2Default w) - (hundredths w : ℚ) / 100| ≤ |mag p - (hundredths w : ℚ) / 100| ∧
      (|mag (round2Default w) - (hundredths w : ℚ) / 100| = |mag p - (hundredths w : ℚ) / 100| →
        mag p = mag (round2Default w) ∨ (round2Default w).getLsbD 0 = false))

/-- R137 (d): a pattern with `exp(w) >= 149` is its own rounding. -/
def Obligations.LargeValuesAreNotRounded : Prop := ∀ w : Word, 149 ≤ (w.extractLsb' 23 8).toNat → round2Default w = w

/-- R137 (f): `ROUND2` is odd in the sign. -/
def Obligations.RoundingIsOddInTheSign : Prop :=
  ∀ w : Word, w.extractLsb' 23 8 ≠ 255 → round2Default (w ^^^ 0x80000000) = round2Default w ^^^ 0x80000000

/-- R130: the `DEC` step of `UNSTUFF`. Every cell outside the bytes written reads as before. -/
def Obligations.UnstuffStepWritesTheUnstuffedFrame : Prop :=
  ∀ s : State, HostQuiet s → s.fsm = .dec → s.op = .unstuff → s.rawcnt.toNat ≤ s.cfg.rawCap → s.mem.wf →
    let u := unstuff s.rawFrame
    ∃ t, step s = .next t ∧ (∀ j, j < u.length → t.uns j = u.getD j 0) ∧
      (∀ a, a < 0x80 ∨ 0x80 + u.length ≤ a → t.mem.read a = s.mem.read a) ∧
      { t with mem := s.mem } =
        finishedOk s (BitVec.ofNat 8 u.length) { ticked s with unscnt := BitVec.ofNat 8 u.length }

/-- R139: the `DEC` step of `DECODE n`. No memory changes. -/
def Obligations.DecodeStepWritesTheReading : Prop :=
  ∀ s : State, HostQuiet s → s.fsm = .dec → s.op = .decode → s.unscnt.toNat ≤ s.cfg.rawCap →
    let p := s.payload s.arg.toNat
    (p.length = s.unscnt.toNat - s.arg.toNat ∧ ∀ k, k < p.length → p.getD k 0 = s.uns (s.arg.toNat + k)) ∧
    (p.length < 40 → step s =
      .next (raised s .malformedPayload (BitVec.ofNat 8 p.length) { ticked s with rdvalid := false })) ∧
    (∀ r, decodePayload s.cfg p = some r → step s = .next (readingTaken s r (ticked s))) ∧
    (40 ≤ p.length → ∃ r, decodePayload s.cfg p = some r)

/-- R185: the `DEC` step of a cycle: unstuff, discard the 5-byte header, decode, in one step. -/
def Obligations.CycleDecodeStepUnstuffsAndDecodes : Prop :=
  ∀ s : State, HostQuiet s → s.fsm = .dec → (s.op = .sample ∨ s.op = .run) → s.rawcnt.toNat ≤ s.cfg.rawCap → s.mem.wf →
    let u := unstuff s.rawFrame
    let p := u.drop 5
    ∃ t, step s = .next t ∧ (∀ j, j < u.length → t.uns j = u.getD j 0) ∧
      (∀ a, a < 0x80 ∨ 0x80 + u.length ≤ a → t.mem.read a = s.mem.read a) ∧
      (p.length < 40 → { t with mem := s.mem } = raised s .malformedPayload (BitVec.ofNat 8 p.length)
        { ticked s with unscnt := BitVec.ofNat 8 u.length, rdvalid := false }) ∧
      (40 ≤ p.length → decodePayload s.cfg p = some t.rd ∧ { t with mem := s.mem } =
        readingTaken s t.rd { ticked s with unscnt := BitVec.ofNat 8 u.length })

/-- R129: `UNSTUFF` written in `IDLE` at one step is in `DEC` after it and back in `IDLE` after the next, with the unstuffed
frame in `UNS`; `RAW` and `RAWCNT` are unchanged. -/
def Obligations.UnstuffTakesTwoSteps : Prop :=
  ∀ (s : State) (rest : List Inputs), Inv s → s.fsm = .idle → s.script = hostWriteInputs 0x00 0x00000005 :: {} :: rest →
    ∃ t v, step s = .next t ∧ t.fsm = .dec ∧ t.op = .unstuff ∧ t.arg = 0 ∧ t.result = ⟨.none, .none, 0⟩ ∧
      step t = .next v ∧ v.fsm = .idle ∧ v.op = .none ∧
      v.payload 0 = unstuff s.rawFrame ∧ v.rawFrame = s.rawFrame ∧ v.rawcnt = s.rawcnt ∧
      v.result = ⟨.ok, .none, BitVec.ofNat 8 (unstuff s.rawFrame).length⟩ ∧ v.ip = s.ip ||| 0x01 ∧ v.rd = s.rd ∧
      v.rdvalid = s.rdvalid

/-- R107, R185: the `DEC` step of a cycle leaves `UNS`, `UNSCNT`, `RD` and `RDVALID` as the `DEC` step of `UNSTUFF` followed
by that of `DECODE 5` on the same `RAW`. -/
def Obligations.CycleDecodeEqualsUnstuffThenDecode : Prop :=
  ∀ s t v c : State, Inv s → s.fsm = .dec → s.op = .unstuff →
    stepWith {} s = .next t → stepWith {} { t with fsm := .dec, op := .decode, arg := 5 } = .next v →
    stepWith {} { s with op := .sample } = .next c →
    v.mem = c.mem ∧ v.unscnt = c.unscnt ∧ v.rd = c.rd ∧ v.rdvalid = c.rdvalid

/-! ### The sampling loop -/

/-- R203: the step of `SETTLE`; its last step starts the ticker. -/
def Obligations.SettleStepStartsTheTicker : Prop :=
  ∀ s : State, HostQuiet s → s.fsm = .settle → s.op = .run →
    (s.tmr = 0 → step s = .next { ticked s with tken := true, ptmr := s.cfg.tPeriod, ptick := false, fsm := .waitp }) ∧
    (s.tmr ≠ 0 → s.input.tick = true → step s = .next { ticked s with tmr := s.tmr - 1 }) ∧
    (s.tmr ≠ 0 → s.input.tick = false → step s = .next (ticked s))

/-- R205: the step of `WAITP`: a pending period tick starts a sub-cycle and is consumed, unless the ticker fires in this very
step. -/
def Obligations.WaitStepStartsASubCycle : Prop :=
  ∀ s : State, HostQuiet s → s.fsm = .waitp → s.op = .run →
    (s.ptick = true → step s = .next { ticked s with
      result := ⟨.none, .none, 0⟩, rawcnt := 0, unscnt := 0, rdvalid := false, fsm := .drn,
      ptick := decide (s.tken = true ∧ s.input.tick = true ∧ s.ptmr.toNat ≤ 1) }) ∧
    (s.ptick = false → step s = .next (ticked s))

/-- R208, R239: the step of `FWD`, with the sink port of R48. -/
def Obligations.ForwardStepWaitsForTheSink : Prop :=
  ∀ s : State, HostQuiet s → s.fsm = .fwd → s.op = .run →
    ((out s s.input).snkValid = true ∧
      ∀ i : Fin 10, (out s s.input).snkData.extractLsb' (32 * (9 - i.val)) 32 = s.rd[i]) ∧
    (s.input.snkFail = true → step s = .next { ticked s with
      errinfo := ⟨.forwardFailed, 0⟩, ev := ⟨true, .forwardFailed, 0⟩, ip := s.ip ||| 0x08, fsm := .live }) ∧
    (s.input.snkFail = false → s.input.snkOk = true → step s = .next { ticked s with fsm := .live }) ∧
    (s.input.snkFail = false → s.input.snkOk = false → step s = .next (ticked s))

/-- R209, R210: the steps of `COOL` and `LIVE`, with the output `alive`. -/
def Obligations.CooldownAndLivenessSteps : Prop :=
  ∀ s : State, HostQuiet s → s.op = .run →
    ((out s s.input).alive = true ↔ s.fsm = .live) ∧
    (s.fsm = .cool → s.tmr = 0 → step s = .next { ticked s with fsm := .live }) ∧
    (s.fsm = .cool → s.tmr ≠ 0 → s.input.tick = true → step s = .next { ticked s with tmr := s.tmr - 1 }) ∧
    (s.fsm = .cool → s.tmr ≠ 0 → s.input.tick = false → step s = .next (ticked s)) ∧
    (s.fsm = .live → step s = .next { ticked s with fsm := .waitp, ip := s.ip ||| 0x10 })

/-! ### Whole runs -/

/-- R283: under `FAIR_TICK`, `FAIR_TX`, `FAIR_RXGAP` and `NO_RST` every one-shot operation ends in `IDLE` or `EXITED`. -/
def Obligations.OneShotOperationsEnd : Prop :=
  ∀ (I : Nat → Inputs) (S : Nat → State), Follows I S → Inv (S 0) → FairTick I → FairTx I S → FairRxGap I → NoRst I →
    (S 0).op ≠ .run → ∃ k, (S k).fsm = .idle ∨ (S k).fsm = .exited

/-- R283: under those premises with `FAIR_SINK` and `NO_STOP` every loop turn of `RUN` reaches `LIVE`. -/
def Obligations.EveryLoopTurnReachesLive : Prop :=
  ∀ (I : Nat → Inputs) (S : Nat → State), Follows I S → Inv (S 0) → FairTick I → FairTx I S → FairRxGap I →
    FairSink I S → NoRst I → NoStop I → (S 0).op = .run → (S 0).fsm ≠ .txs → ∃ k, (S k).fsm = .live

/-- R187: a cycle reads nothing an earlier operation left but `DEADLINE`. Two idle machines with the same parameters and
`DEADLINE`, given `SAMPLE` and then the same inputs without host writes, go through the same states of the cycle, show the
same TX outputs and the same `rx_take`, and reach the same outcome, reading and bytes received. -/
def Obligations.SampleCycleIsSelfContained : Prop :=
  ∀ (I : Nat → Inputs) (S T : Nat → State), Follows I S → Follows I T → Inv (S 0) → Inv (T 0) → NoRst I → NoHostFrom 1 I →
    (S 0).fsm = .idle → (T 0).fsm = .idle → (S 0).cfg = (T 0).cfg → (S 0).deadline = (T 0).deadline →
    hostCommand (I 0) = some (encode .sample) → ∀ k,
      (S (k + 1)).fsm = (T (k + 1)).fsm ∧ (S (k + 1)).result = (T (k + 1)).result ∧
      (S (k + 1)).rawFrame = (T (k + 1)).rawFrame ∧ (S (k + 1)).rdvalid = (T (k + 1)).rdvalid ∧
      ((S (k + 1)).rdvalid = true → (S (k + 1)).rd = (T (k + 1)).rd) ∧
      txValid (S (k + 1)) = txValid (T (k + 1)) ∧ txData (S (k + 1)) = txData (T (k + 1)) ∧
      rxTake (S (k + 1)) (I (k + 1)) = rxTake (T (k + 1)) (I (k + 1))

/-! ### Outputs, and every `ROUND2` -/

/-- R50, R49 and the output rules R44 to R48: each output in every state, with the codes of R230 spelled out; all of them are
functions of the pre-step state alone, except `rx_take`, which also depends on `rx_st`, and `h_rdata`, which also depends on
`h_sel`, `h_we` and `h_widx`. -/
def Obligations.OutputsAreFunctionsOfTheState : Prop :=
  ∀ (s : State) (i : Inputs),
    let len : Byte := if s.op = .readx then s.arg else 47
    ((out s i).rxTake = true ↔ ((s.fsm = .rdx ∧ s.rawcnt ≠ len ∧ s.dlcnt ≠ 0 ∧ i.rxSt ≠ .none) ∨
      (s.fsm = .drn ∧ i.rxSt ≠ .none))) ∧
    ((out s i).txValid = true ↔ (s.fsm = .txs ∨ s.fsm = .txr)) ∧
    (∀ k : Fin 8, s.fsm = .txs → s.txi.toNat = k →
      (out s i).txData = #v[0x7E, 0x00, 0x00, 0x02, 0x01, 0x03, 0xF9, 0x7E][k]) ∧
    (∀ k : Fin 6, s.fsm = .txr → s.txi.toNat = k → (out s i).txData = #v[0x7E, 0x00, 0x03, 0x00, 0xFC, 0x7E][k]) ∧
    (s.fsm ≠ .txs → s.fsm ≠ .txr → (out s i).txData = 0) ∧
    ((out s i).snkValid = true ↔ s.fsm = .fwd) ∧
    (∀ k : Fin 10, (out s i).snkData.extractLsb' (32 * (9 - k.val)) 32 = s.rd[k]) ∧
    ((out s i).alive = true ↔ s.fsm = .live) ∧
    ((out s i).evValid = s.ev.valid ∧ (out s i).evCount = s.ev.count ∧ (s.ev.code, (out s i).evCode.toNat) ∈
      [(ErrCode.none, 0), (ErrCode.configMissing, 1), (ErrCode.transportOpenFailed, 2), (ErrCode.sensorStartFailed, 3),
       (ErrCode.requestFailed, 4), (ErrCode.timeout, 5), (ErrCode.shortFrame, 6), (ErrCode.malformedPayload, 7),
       (ErrCode.ioError, 8), (ErrCode.streamClosed, 9), (ErrCode.forwardFailed, 10)]) ∧
    ((out s i).irq = true ↔ ∃ k : Fin 7, s.ip[k] = true ∧ s.ie[k] = true) ∧
    (out s i).hRdata = (if i.hSel = true ∧ i.hWe = false then regRead s i.hWidx else 0) ∧
    ∀ j : Inputs,
      { out s j with rxTake := (out s i).rxTake, hRdata := (out s i).hRdata } = out s i ∧
      (j.rxSt = i.rxSt → (out s j).rxTake = (out s i).rxTake) ∧
      (j.hSel = i.hSel → j.hWe = i.hWe → j.hWidx = i.hWidx → (out s j).hRdata = (out s i).hRdata)

/-- R135 (a), (b), (c): whatever the parameters, `ROUND2` of a finite pattern is a finite pattern nearest to a nearest number
of hundredths, with the sign of the pattern unless it is zero; a tie goes away from zero under the default and to the even
number under half-even; and 1.23456 gives 1.23. -/
def Obligations.EveryRoundingIsToANearestHundredth : Prop :=
  ∀ cfg : Config.Params,
    (∀ w : Word, w.extractLsb' 23 8 ≠ 255 →
      (round2 cfg w).extractLsb' 23 8 ≠ 255 ∧
      ((round2 cfg w).getLsbD 31 = w.getLsbD 31 ∨ mag (round2 cfg w) = 0) ∧
      ∃ n : ℕ, |100 * mag w - (n : ℚ)| ≤ 1 / 2 ∧
        (cfg.rounding = .halfAway → (n : ℤ) = ⌊100 * mag w + 1 / 2⌋) ∧
        (cfg.rounding = .halfEven → |100 * mag w - (n : ℚ)| = 1 / 2 → n % 2 = 0) ∧
        ∀ p : Word, p.extractLsb' 23 8 ≠ 255 → |mag (round2 cfg w) - (n : ℚ) / 100| ≤ |mag p - (n : ℚ) / 100|) ∧
    round2 cfg 0x3F9E0610 = 0x3F9D70A4
end

