-- ==== Sys2Proof/Laws/Memory.lean ====
section
/-! SUPPORT. The laws of the buffer cells: a read after a write, that a write leaves every other cell alone, and that every
memory operation keeps the canonical form. -/

namespace Sys2Proof.Machine

@[simp] theorem Memory.read_nil (a : Nat) : Memory.read [] a = 0#8 := rfl

/-- An address that lies below every listed one reads as 0x00. -/
theorem Memory.read_below {m : Memory} {a : Nat} (h : ∀ c ∈ m, a < c.1) : m.read a = 0#8 := by
  induction m with
  | nil => rfl
  | cons c t ih =>
    obtain ⟨k, v⟩ := c
    have hk : a < k := h (k, v) (by simp)
    simp only [Memory.read, if_neg (by omega : ¬ k = a)]
    exact ih fun c hc => h c (by simp [hc])

/-- What a write leaves at each address of a memory in canonical form. -/
theorem Memory.read_write {m : Memory} (hm : m.wf) (a b : Nat) (v : Byte) :
    (m.write a v).read b = if a = b then v else m.read b := by
  induction m with
  | nil =>
    by_cases hv : v = 0#8 <;> by_cases hab : a = b <;> simp [Memory.write, Memory.read, hv, hab]
  | cons c t ih =>
    obtain ⟨k, w⟩ := c
    have ht : Memory.wf t := ⟨(List.pairwise_cons.1 hm.1).2, fun c hc => hm.2 c (by simp [hc])⟩
    have hk : ∀ c ∈ t, k < c.1 := (List.pairwise_cons.1 hm.1).1
    have below : ∀ x, x ≤ k → Memory.read t x = 0#8 := fun x hx =>
      Memory.read_below fun c hc => by have := hk c hc; omega
    simp only [Memory.write]
    by_cases h1 : a < k
    · rw [if_pos h1]
      by_cases hv : v = 0#8
      · rw [if_pos hv]
        by_cases hab : a = b
        · subst hab
          rw [if_pos rfl, hv]
          simp only [Memory.read, if_neg (by omega : ¬ k = a)]
          exact below a (by omega)
        · rw [if_neg hab]
      · rw [if_neg hv]
        by_cases hab : a = b <;> simp [Memory.read, hab]
    · rw [if_neg h1]
      by_cases h2 : a = k
      · subst h2
        rw [if_pos rfl]
        by_cases hab : a = b
        · subst hab
          by_cases hv : v = 0#8
          · simp [hv, below a (le_refl a)]
          · simp [hv, Memory.read]
        · by_cases hv : v = 0#8 <;> simp [hv, hab, Memory.read]
      · rw [if_neg h2]
        simp only [Memory.read, ih ht]
        by_cases hkb : k = b
        · subst hkb; simp [h2]
        · simp [hkb]

/-- A read after a write to the same cell gives the byte written. -/
@[simp] theorem Memory.read_write_same {m : Memory} (hm : m.wf) (a : Nat) (v : Byte) : (m.write a v).read a = v := by
  simp [Memory.read_write hm]

/-- A write leaves every other cell alone. -/
theorem Memory.read_write_ne {m : Memory} (hm : m.wf) {a b : Nat} (h : a ≠ b) (v : Byte) :
    (m.write a v).read b = m.read b := by
  simp [Memory.read_write hm, h]

/-- The entries of a written memory are old ones or the one written. -/
theorem Memory.mem_write {m : Memory} {a : Nat} {v : Byte} {c : Host.Cell} (h : c ∈ m.write a v) :
    c ∈ m ∨ (c = (a, v) ∧ v ≠ 0#8) := by
  induction m with
  | nil =>
    by_cases hv : v = 0#8
    · simp [Memory.write, hv] at h
    · simp only [Memory.write, if_neg hv, List.mem_singleton] at h; exact .inr ⟨h, hv⟩
  | cons d t ih =>
    obtain ⟨k, w⟩ := d
    simp only [Memory.write] at h
    split at h
    · split at h
      · exact .inl h
      · rename_i hv
        rcases List.mem_cons.1 h with rfl | h
        · exact .inr ⟨rfl, hv⟩
        · exact .inl h
    · split at h
      · split at h
        · exact .inl (by simp [h])
        · rename_i hv
          rcases List.mem_cons.1 h with rfl | h
          · exact .inr ⟨rfl, hv⟩
          · exact .inl (by simp [h])
      · rcases List.mem_cons.1 h with rfl | h
        · exact .inl (by simp)
        · rcases ih h with h | h
          · exact .inl (by simp [h])
          · exact .inr h

/-- A write keeps the canonical form. -/
theorem Memory.write_wf {m : Memory} (hm : m.wf) (a : Nat) (v : Byte) : (m.write a v).wf := by
  refine ⟨?_, fun c hc => ?_⟩
  · induction m with
    | nil => by_cases hv : v = 0#8 <;> simp [Memory.write, hv]
    | cons d t ih =>
      obtain ⟨k, w⟩ := d
      have hp := List.pairwise_cons.1 hm.1
      have ht : Memory.wf t := ⟨hp.2, fun c hc => hm.2 c (by simp [hc])⟩
      simp only [Memory.write]
      split
      · split
        · exact hm.1
        · rename_i hlt _
          refine List.pairwise_cons.2 ⟨fun c hc => ?_, hm.1⟩
          rcases List.mem_cons.1 hc with rfl | hc
          · exact hlt
          · exact lt_trans hlt (hp.1 c hc)
      · split
        · rename_i heq
          split
          · exact hp.2
          · exact List.pairwise_cons.2 ⟨fun c hc => heq ▸ hp.1 c hc, hp.2⟩
        · rename_i hlt hne
          refine List.pairwise_cons.2 ⟨fun c hc => ?_, ih ht⟩
          rcases Memory.mem_write hc with hc | ⟨rfl, -⟩
          · exact hp.1 c hc
          · show k < a; omega
  · rcases Memory.mem_write hc with hc | ⟨rfl, hv⟩
    · exact hm.2 c hc
    · exact hv

/-! ### Lists of bytes -/

/-- Storing a list of bytes keeps the canonical form. -/
theorem Memory.writeBytes_wf {m : Memory} (hm : m.wf) (a : Nat) (l : List Byte) : (m.writeBytes a l).wf := by
  induction l generalizing m a with
  | nil => exact hm
  | cons b t ih => exact ih (Memory.write_wf hm a b) (a + 1)

/-- The entries of a memory after storing a list are old ones or lie among the stored cells. -/
theorem Memory.mem_writeBytes {m : Memory} {a : Nat} {l : List Byte} {c : Host.Cell} (h : c ∈ m.writeBytes a l) :
    c ∈ m ∨ (a ≤ c.1 ∧ c.1 < a + l.length) := by
  induction l generalizing m a with
  | nil => exact .inl h
  | cons b t ih =>
    rcases ih h with h | ⟨h1, h2⟩
    · rcases Memory.mem_write h with h | ⟨rfl, -⟩
      · exact .inl h
      · right; simp
    · right; simp only [List.length_cons]; omega

/-- What storing a list of bytes leaves at each address. -/
theorem Memory.read_writeBytes {m : Memory} (hm : m.wf) (a b : Nat) (l : List Byte) :
    (m.writeBytes a l).read b = if a ≤ b ∧ b < a + l.length then l.getD (b - a) 0 else m.read b := by
  induction l generalizing m a with
  | nil => rw [if_neg (by simp)]; rfl
  | cons c t ih =>
    simp only [Memory.writeBytes, ih (Memory.write_wf hm a c), Memory.read_write hm, List.length_cons]
    by_cases hab : a = b
    · subst hab
      rw [if_neg (by omega), if_pos rfl, if_pos ⟨by omega, by omega⟩]
      simp
    · rw [if_neg hab]
      by_cases hin : a + 1 ≤ b ∧ b < a + 1 + t.length
      · rw [if_pos hin, if_pos ⟨by omega, by omega⟩]
        obtain ⟨k, hk⟩ : ∃ k, b - a = k + 1 := ⟨b - a - 1, by omega⟩
        rw [hk, show b - (a + 1) = k by omega]
        simp
      · rw [if_neg hin, if_neg (by omega)]

@[simp] theorem Memory.readBytes_length (m : Memory) (a n : Nat) : (m.readBytes a n).length = n := by
  induction n generalizing a with
  | zero => rfl
  | succ n ih => simp [Memory.readBytes, ih]

/-- The bytes read are the cells' bytes, in order. -/
theorem Memory.readBytes_getD (m : Memory) (a n k : Nat) (h : k < n) : (m.readBytes a n).getD k 0 = m.read (a + k) := by
  induction n generalizing a k with
  | zero => omega
  | succ n ih =>
    cases k with
    | zero => simp [Memory.readBytes]
    | succ k =>
      simp only [Memory.readBytes, List.getD_cons_succ, ih (a + 1) k (by omega)]
      congr 1; omega

/-- Two memories that agree on the cells read give the same bytes. -/
theorem Memory.readBytes_congr {m m' : Memory} {a n : Nat} (h : ∀ k, k < n → m.read (a + k) = m'.read (a + k)) :
    m.readBytes a n = m'.readBytes a n := by
  induction n generalizing a with
  | zero => rfl
  | succ n ih =>
    have h0 : m.read a = m'.read a := by simpa using h 0 (by omega)
    have ht : m.readBytes (a + 1) n = m'.readBytes (a + 1) n := ih fun k hk => by
      have h1 := h (k + 1) (by omega)
      rwa [show a + (k + 1) = a + 1 + k by omega] at h1
    simp only [Memory.readBytes, h0, ht]

/-- Reading from a later cell on is dropping the bytes before it. -/
theorem Memory.readBytes_drop (m : Memory) (a n k : Nat) : (m.readBytes a n).drop k = m.readBytes (a + k) (n - k) := by
  induction k generalizing a n with
  | zero => rfl
  | succ k ih =>
    cases n with
    | zero => simp [Memory.readBytes]
    | succ n =>
      simp only [Memory.readBytes, List.drop_succ_cons, ih, Nat.succ_sub_succ_eq_sub]
      congr 1; omega

/-- Reading back a stored list of bytes. -/
theorem Memory.readBytes_writeBytes {m : Memory} (hm : m.wf) (a : Nat) (l : List Byte) :
    (m.writeBytes a l).readBytes a l.length = l := by
  apply List.ext_getElem (by simp)
  intro k h1 h2
  have hk : k < l.length := h2
  have := Memory.readBytes_getD (m.writeBytes a l) a l.length k hk
  rw [Memory.read_writeBytes hm, if_pos ⟨by omega, by omega⟩, show a + k - a = k by omega] at this
  simpa [List.getD_eq_getElem?_getD, hk] using this

end Sys2Proof.Machine
end

