-- ==== Sys2Proof/Laws/Codec.lean ====
section
/-! SUPPORT. The laws of the pure functions: the lengths of `unstuff` and of the buffers' slices, which functions `ROUND2` can
be, and when `decode` succeeds. -/

namespace Sys2Proof.Machine

/-- A byte that is not the escape prefix is copied (R125). -/
theorem unstuff_cons_ne {b : Byte} (h : b ≠ 0x7D#8) (t : List Byte) : unstuff (b :: t) = b :: unstuff t := by
  cases t <;> simp [unstuff, h]

/-- A pair is replaced by the byte it stands for (R125). -/
theorem unstuff_pair {c e : Byte} (h : esc c = some e) (t : List Byte) : unstuff (0x7D#8 :: c :: t) = e :: unstuff t := by
  simp [unstuff, h]

/-- A prefix with no listed second byte is copied, and the scan goes on at that byte (R105, R125). -/
theorem unstuff_lone {c : Byte} (h : esc c = none) (t : List Byte) :
    unstuff (0x7D#8 :: c :: t) = 0x7D#8 :: unstuff (c :: t) := by
  simp [unstuff, h]

/-- `len(unstuff(L)) <= len(L)` (R126 b). -/
theorem unstuff_length_le (l : List Byte) : (unstuff l).length ≤ l.length := by
  induction l using unstuff.induct with
  | case1 => simp [unstuff]
  | case2 => simp [unstuff]
  | case3 c t e h ih => rw [unstuff_pair h]; simp only [List.length_cons]; omega
  | case4 c t h ih => rw [unstuff_lone h]; simp only [List.length_cons] at ih ⊢; omega
  | case5 b c t h ih => rw [unstuff_cons_ne h]; simp only [List.length_cons] at ih ⊢; omega

@[simp] theorem rawFrame_length (s : State) : s.rawFrame.length = s.rawcnt.toNat := by simp [State.rawFrame]

@[simp] theorem payload_length (s : State) (off : Nat) : (s.payload off).length = s.unscnt.toNat - off := by
  simp [State.payload]

/-- The unstuffed frame is no longer than the frame (R27). -/
theorem unstuff_rawFrame_length (s : State) : (unstuff s.rawFrame).length ≤ s.rawcnt.toNat := by
  simpa using unstuff_length_le s.rawFrame

/-! ### Which functions `ROUND2` can be (R135) -/

@[simp] theorem sgn_append (a : BitVec 1) (b : BitVec 31) : sgn (a ++ b) = a :=
  BitVec.extractLsb'_append_eq_left

@[simp] theorem low_append (a : BitVec 1) (b : BitVec 31) : (a ++ b).extractLsb' 0 31 = b :=
  BitVec.extractLsb'_append_eq_right

theorem roundsToHundredth_default (w : Word) : roundsToHundredth w (round2Default w) = true := by
  by_cases h : expo w = 255#8 <;> simp [roundsToHundredth, round2Default, h]

theorem roundsToHundredth_halfEven (w : Word) : roundsToHundredth w (round2HalfEven w) = true := by
  by_cases h : expo w = 255#8
  · simp [roundsToHundredth, h]
  · by_cases he : hundredths w % 2 = 0 <;> simp [roundsToHundredth, round2HalfEven, h, he]

/-- A given `ROUND2` is its graph where R135 allows the pair. -/
theorem round2Given_of_lookup {graph : List (Word × Word)} {w r : Word} (h : graph.lookup w = some r)
    (hr : roundsToHundredth w r = true) : round2Given graph w = r := by
  simp [round2Given, h, hr]

theorem roundsToHundredth_given (graph : List (Word × Word)) (w : Word) :
    roundsToHundredth w (round2Given graph w) = true := by
  unfold round2Given
  split
  · split
    · assumption
    · exact roundsToHundredth_default w
  · exact roundsToHundredth_default w

/-- Whatever the parameters, `ROUND2` meets R135. -/
theorem round2_roundsToHundredth (cfg : Config.Params) (w : Word) : roundsToHundredth w (round2 cfg w) = true := by
  unfold round2
  split
  · exact roundsToHundredth_default w
  · exact roundsToHundredth_halfEven w
  · exact roundsToHundredth_given _ w

theorem lookup_graph (f : Word → Word) {l : List Word} {w : Word} (h : w ∈ l) :
    (l.map fun v => (v, f v)).lookup w = some (f w) := by
  induction l with
  | nil => cases h
  | cons v t ih =>
    by_cases hv : w = v
    · subst hv; simp
    · rw [List.map_cons, List.lookup_cons, beq_eq_false_iff_ne.mpr hv]
      exact ih ((List.mem_cons.mp h).resolve_left hv)

/-- Every function that meets R135 is a `ROUND2` of some parameters: a claim about all parameters is a claim about all of
them (U1). -/
theorem exists_given {f : Word → Word} (h : ∀ w, roundsToHundredth w (f w) = true) :
    ∃ graph, ∀ cfg : Config.Params, cfg.rounding = .given graph → ∀ w, round2 cfg w = f w := by
  obtain ⟨l, hl⟩ : ∃ l : List Word, ∀ w, w ∈ l := ⟨(Set.finite_univ (α := Word)).toFinset.toList, by simp⟩
  refine ⟨l.map fun v => (v, f v), fun cfg hc w => ?_⟩
  simp only [round2, hc]
  exact round2Given_of_lookup (lookup_graph f (hl w)) (h w)

/-! ### decode -/

/-- `decode` succeeds exactly when 40 bytes are there (R131). -/
theorem decodePayload_some {cfg : Config.Params} {p : List Byte} (h : 40 ≤ p.length) :
    decodePayload cfg p = some (reading cfg p) := by
  unfold decodePayload
  exact if_neg (show ¬ p.length < 40 by omega)

theorem decodePayload_none {cfg : Config.Params} {p : List Byte} (h : p.length < 40) : decodePayload cfg p = none := by
  simp [decodePayload, Config.payloadMin, h]

/-- The decoding part of a `DEC` step when fewer than 40 payload bytes are there (R139). -/
theorem decodeInto_short {s : State} {p : List Byte} (h : p.length < 40) (a : Act) :
    decodeInto s p a =
      raiseError s .malformedPayload (BitVec.ofNat 8 p.length) { a with st := { a.st with rdvalid := false } } := by
  simp [decodeInto, decodePayload_none h]

/-- The decoding part of a `DEC` step when 40 payload bytes are there (R139). -/
theorem decodeInto_full {s : State} {p : List Byte} (h : 40 ≤ p.length) (a : Act) :
    decodeInto s p a =
      complete s .reading .none 40 { a with st := { a.st with rd := reading s.cfg p, rdvalid := true } } := by
  simp [decodeInto, decodePayload_some h]

end Sys2Proof.Machine
end

