-- ==== Sys2Proof/Laws/State.lean ====
section
/-! SUPPORT. The fields of State after each named update: one lemma per field per update, so that no proof unfolds a record
update. -/

namespace Sys2Proof.Machine

variable (s t : State) (i : Inputs)

/-! ### `State.advance`, `State.present` -/

@[simp] theorem State.advance_cfg : s.advance.cfg = s.cfg := by unfold State.advance; split <;> rfl
@[simp] theorem State.advance_fsm : s.advance.fsm = s.fsm := by unfold State.advance; split <;> rfl
@[simp] theorem State.advance_op : s.advance.op = s.op := by unfold State.advance; split <;> rfl
@[simp] theorem State.advance_arg : s.advance.arg = s.arg := by unfold State.advance; split <;> rfl
@[simp] theorem State.advance_txi : s.advance.txi = s.txi := by unfold State.advance; split <;> rfl
@[simp] theorem State.advance_mem : s.advance.mem = s.mem := by unfold State.advance; split <;> rfl
@[simp] theorem State.advance_rawcnt : s.advance.rawcnt = s.rawcnt := by unfold State.advance; split <;> rfl
@[simp] theorem State.advance_unscnt : s.advance.unscnt = s.unscnt := by unfold State.advance; split <;> rfl
@[simp] theorem State.advance_rd : s.advance.rd = s.rd := by unfold State.advance; split <;> rfl
@[simp] theorem State.advance_rdvalid : s.advance.rdvalid = s.rdvalid := by unfold State.advance; split <;> rfl
@[simp] theorem State.advance_deadline : s.advance.deadline = s.deadline := by unfold State.advance; split <;> rfl
@[simp] theorem State.advance_dlcnt : s.advance.dlcnt = s.dlcnt := by unfold State.advance; split <;> rfl
@[simp] theorem State.advance_tmr : s.advance.tmr = s.tmr := by unfold State.advance; split <;> rfl
@[simp] theorem State.advance_ptmr : s.advance.ptmr = s.ptmr := by unfold State.advance; split <;> rfl
@[simp] theorem State.advance_tken : s.advance.tken = s.tken := by unfold State.advance; split <;> rfl
@[simp] theorem State.advance_ptick : s.advance.ptick = s.ptick := by unfold State.advance; split <;> rfl
@[simp] theorem State.advance_exitcode : s.advance.exitcode = s.exitcode := by unfold State.advance; split <;> rfl
@[simp] theorem State.advance_result : s.advance.result = s.result := by unfold State.advance; split <;> rfl
@[simp] theorem State.advance_errinfo : s.advance.errinfo = s.errinfo := by unfold State.advance; split <;> rfl
@[simp] theorem State.advance_ev : s.advance.ev = s.ev := by unfold State.advance; split <;> rfl
@[simp] theorem State.advance_ie : s.advance.ie = s.ie := by unfold State.advance; split <;> rfl
@[simp] theorem State.advance_ip : s.advance.ip = s.ip := by unfold State.advance; split <;> rfl
@[simp] theorem State.present_cfg : (s.present i).cfg = s.cfg := rfl
@[simp] theorem State.present_fsm : (s.present i).fsm = s.fsm := rfl
@[simp] theorem State.present_op : (s.present i).op = s.op := rfl
@[simp] theorem State.present_arg : (s.present i).arg = s.arg := rfl
@[simp] theorem State.present_txi : (s.present i).txi = s.txi := rfl
@[simp] theorem State.present_mem : (s.present i).mem = s.mem := rfl
@[simp] theorem State.present_rawcnt : (s.present i).rawcnt = s.rawcnt := rfl
@[simp] theorem State.present_unscnt : (s.present i).unscnt = s.unscnt := rfl
@[simp] theorem State.present_rd : (s.present i).rd = s.rd := rfl
@[simp] theorem State.present_rdvalid : (s.present i).rdvalid = s.rdvalid := rfl
@[simp] theorem State.present_deadline : (s.present i).deadline = s.deadline := rfl
@[simp] theorem State.present_dlcnt : (s.present i).dlcnt = s.dlcnt := rfl
@[simp] theorem State.present_tmr : (s.present i).tmr = s.tmr := rfl
@[simp] theorem State.present_ptmr : (s.present i).ptmr = s.ptmr := rfl
@[simp] theorem State.present_tken : (s.present i).tken = s.tken := rfl
@[simp] theorem State.present_ptick : (s.present i).ptick = s.ptick := rfl
@[simp] theorem State.present_exitcode : (s.present i).exitcode = s.exitcode := rfl
@[simp] theorem State.present_result : (s.present i).result = s.result := rfl
@[simp] theorem State.present_errinfo : (s.present i).errinfo = s.errinfo := rfl
@[simp] theorem State.present_ev : (s.present i).ev = s.ev := rfl
@[simp] theorem State.present_ie : (s.present i).ie = s.ie := rfl
@[simp] theorem State.present_ip : (s.present i).ip = s.ip := rfl
@[simp] theorem State.present_script : (s.present i).script = i :: s.script := rfl
@[simp] theorem State.present_draws : (s.present i).draws = s.draws := rfl

/-- The inputs of a presented step are the presented ones. -/
@[simp] theorem State.present_input : (s.present i).input = i := rfl

/-- A presented step uses up the presented inputs and nothing else. -/
@[simp] theorem State.present_advance : (s.present i).advance = s := rfl

/-! ### `clearEvent` -/

@[simp] theorem clearEvent_cfg : (clearEvent t).cfg = t.cfg := rfl
@[simp] theorem clearEvent_fsm : (clearEvent t).fsm = t.fsm := rfl
@[simp] theorem clearEvent_op : (clearEvent t).op = t.op := rfl
@[simp] theorem clearEvent_arg : (clearEvent t).arg = t.arg := rfl
@[simp] theorem clearEvent_txi : (clearEvent t).txi = t.txi := rfl
@[simp] theorem clearEvent_mem : (clearEvent t).mem = t.mem := rfl
@[simp] theorem clearEvent_rawcnt : (clearEvent t).rawcnt = t.rawcnt := rfl
@[simp] theorem clearEvent_unscnt : (clearEvent t).unscnt = t.unscnt := rfl
@[simp] theorem clearEvent_rd : (clearEvent t).rd = t.rd := rfl
@[simp] theorem clearEvent_rdvalid : (clearEvent t).rdvalid = t.rdvalid := rfl
@[simp] theorem clearEvent_deadline : (clearEvent t).deadline = t.deadline := rfl
@[simp] theorem clearEvent_dlcnt : (clearEvent t).dlcnt = t.dlcnt := rfl
@[simp] theorem clearEvent_tmr : (clearEvent t).tmr = t.tmr := rfl
@[simp] theorem clearEvent_ptmr : (clearEvent t).ptmr = t.ptmr := rfl
@[simp] theorem clearEvent_tken : (clearEvent t).tken = t.tken := rfl
@[simp] theorem clearEvent_ptick : (clearEvent t).ptick = t.ptick := rfl
@[simp] theorem clearEvent_exitcode : (clearEvent t).exitcode = t.exitcode := rfl
@[simp] theorem clearEvent_result : (clearEvent t).result = t.result := rfl
@[simp] theorem clearEvent_errinfo : (clearEvent t).errinfo = t.errinfo := rfl
@[simp] theorem clearEvent_ev : (clearEvent t).ev = { t.ev with valid := false } := rfl
@[simp] theorem clearEvent_ie : (clearEvent t).ie = t.ie := rfl
@[simp] theorem clearEvent_ip : (clearEvent t).ip = t.ip := rfl
@[simp] theorem clearEvent_script : (clearEvent t).script = t.script := rfl
@[simp] theorem clearEvent_draws : (clearEvent t).draws = t.draws := rfl

/-! ### `ticker` -/

@[simp] theorem ticker_cfg : (ticker s i t).cfg = t.cfg := rfl
@[simp] theorem ticker_fsm : (ticker s i t).fsm = t.fsm := rfl
@[simp] theorem ticker_op : (ticker s i t).op = t.op := rfl
@[simp] theorem ticker_arg : (ticker s i t).arg = t.arg := rfl
@[simp] theorem ticker_txi : (ticker s i t).txi = t.txi := rfl
@[simp] theorem ticker_mem : (ticker s i t).mem = t.mem := rfl
@[simp] theorem ticker_rawcnt : (ticker s i t).rawcnt = t.rawcnt := rfl
@[simp] theorem ticker_unscnt : (ticker s i t).unscnt = t.unscnt := rfl
@[simp] theorem ticker_rd : (ticker s i t).rd = t.rd := rfl
@[simp] theorem ticker_rdvalid : (ticker s i t).rdvalid = t.rdvalid := rfl
@[simp] theorem ticker_deadline : (ticker s i t).deadline = t.deadline := rfl
@[simp] theorem ticker_dlcnt : (ticker s i t).dlcnt = t.dlcnt := rfl
@[simp] theorem ticker_tmr : (ticker s i t).tmr = t.tmr := rfl
@[simp] theorem ticker_ptmr : (ticker s i t).ptmr = if tickerFires s i then s.cfg.tPeriod else if s.tken && i.tick then s.ptmr - 1 else s.ptmr := rfl
@[simp] theorem ticker_tken : (ticker s i t).tken = t.tken := rfl
@[simp] theorem ticker_ptick : (ticker s i t).ptick = (tickerFires s i || (s.ptick && !tickerConsumed s)) := rfl
@[simp] theorem ticker_exitcode : (ticker s i t).exitcode = t.exitcode := rfl
@[simp] theorem ticker_result : (ticker s i t).result = t.result := rfl
@[simp] theorem ticker_errinfo : (ticker s i t).errinfo = t.errinfo := rfl
@[simp] theorem ticker_ev : (ticker s i t).ev = t.ev := rfl
@[simp] theorem ticker_ie : (ticker s i t).ie = t.ie := rfl
@[simp] theorem ticker_ip : (ticker s i t).ip = t.ip := rfl
@[simp] theorem ticker_script : (ticker s i t).script = t.script := rfl
@[simp] theorem ticker_draws : (ticker s i t).draws = t.draws := rfl

/-! ### `accept` -/

@[simp] theorem accept_cfg (o : Operation) (n : Byte) (f : Fsm) : (accept o n f t).cfg = t.cfg := rfl
@[simp] theorem accept_fsm (o : Operation) (n : Byte) (f : Fsm) : (accept o n f t).fsm = f := rfl
@[simp] theorem accept_op (o : Operation) (n : Byte) (f : Fsm) : (accept o n f t).op = o := rfl
@[simp] theorem accept_arg (o : Operation) (n : Byte) (f : Fsm) : (accept o n f t).arg = n := rfl
@[simp] theorem accept_txi (o : Operation) (n : Byte) (f : Fsm) : (accept o n f t).txi = t.txi := rfl
@[simp] theorem accept_mem (o : Operation) (n : Byte) (f : Fsm) : (accept o n f t).mem = t.mem := rfl
@[simp] theorem accept_rawcnt (o : Operation) (n : Byte) (f : Fsm) : (accept o n f t).rawcnt = t.rawcnt := rfl
@[simp] theorem accept_unscnt (o : Operation) (n : Byte) (f : Fsm) : (accept o n f t).unscnt = t.unscnt := rfl
@[simp] theorem accept_rd (o : Operation) (n : Byte) (f : Fsm) : (accept o n f t).rd = t.rd := rfl
@[simp] theorem accept_rdvalid (o : Operation) (n : Byte) (f : Fsm) : (accept o n f t).rdvalid = t.rdvalid := rfl
@[simp] theorem accept_deadline (o : Operation) (n : Byte) (f : Fsm) : (accept o n f t).deadline = t.deadline := rfl
@[simp] theorem accept_dlcnt (o : Operation) (n : Byte) (f : Fsm) : (accept o n f t).dlcnt = t.dlcnt := rfl
@[simp] theorem accept_tmr (o : Operation) (n : Byte) (f : Fsm) : (accept o n f t).tmr = t.tmr := rfl
@[simp] theorem accept_ptmr (o : Operation) (n : Byte) (f : Fsm) : (accept o n f t).ptmr = t.ptmr := rfl
@[simp] theorem accept_tken (o : Operation) (n : Byte) (f : Fsm) : (accept o n f t).tken = t.tken := rfl
@[simp] theorem accept_ptick (o : Operation) (n : Byte) (f : Fsm) : (accept o n f t).ptick = t.ptick := rfl
@[simp] theorem accept_exitcode (o : Operation) (n : Byte) (f : Fsm) : (accept o n f t).exitcode = t.exitcode := rfl
@[simp] theorem accept_result (o : Operation) (n : Byte) (f : Fsm) : (accept o n f t).result = ⟨.none, .none, 0⟩ := rfl
@[simp] theorem accept_errinfo (o : Operation) (n : Byte) (f : Fsm) : (accept o n f t).errinfo = t.errinfo := rfl
@[simp] theorem accept_ev (o : Operation) (n : Byte) (f : Fsm) : (accept o n f t).ev = t.ev := rfl
@[simp] theorem accept_ie (o : Operation) (n : Byte) (f : Fsm) : (accept o n f t).ie = t.ie := rfl
@[simp] theorem accept_ip (o : Operation) (n : Byte) (f : Fsm) : (accept o n f t).ip = t.ip := rfl
@[simp] theorem accept_script (o : Operation) (n : Byte) (f : Fsm) : (accept o n f t).script = t.script := rfl
@[simp] theorem accept_draws (o : Operation) (n : Byte) (f : Fsm) : (accept o n f t).draws = t.draws := rfl

/-! ### `startRead` -/

@[simp] theorem startRead_cfg : (startRead s t).cfg = t.cfg := rfl
@[simp] theorem startRead_fsm : (startRead s t).fsm = .rdx := rfl
@[simp] theorem startRead_op : (startRead s t).op = t.op := rfl
@[simp] theorem startRead_arg : (startRead s t).arg = t.arg := rfl
@[simp] theorem startRead_txi : (startRead s t).txi = t.txi := rfl
@[simp] theorem startRead_mem : (startRead s t).mem = t.mem := rfl
@[simp] theorem startRead_rawcnt : (startRead s t).rawcnt = 0 := rfl
@[simp] theorem startRead_unscnt : (startRead s t).unscnt = t.unscnt := rfl
@[simp] theorem startRead_rd : (startRead s t).rd = t.rd := rfl
@[simp] theorem startRead_rdvalid : (startRead s t).rdvalid = t.rdvalid := rfl
@[simp] theorem startRead_deadline : (startRead s t).deadline = t.deadline := rfl
@[simp] theorem startRead_dlcnt : (startRead s t).dlcnt = s.deadline := rfl
@[simp] theorem startRead_tmr : (startRead s t).tmr = t.tmr := rfl
@[simp] theorem startRead_ptmr : (startRead s t).ptmr = t.ptmr := rfl
@[simp] theorem startRead_tken : (startRead s t).tken = t.tken := rfl
@[simp] theorem startRead_ptick : (startRead s t).ptick = t.ptick := rfl
@[simp] theorem startRead_exitcode : (startRead s t).exitcode = t.exitcode := rfl
@[simp] theorem startRead_result : (startRead s t).result = t.result := rfl
@[simp] theorem startRead_errinfo : (startRead s t).errinfo = t.errinfo := rfl
@[simp] theorem startRead_ev : (startRead s t).ev = t.ev := rfl
@[simp] theorem startRead_ie : (startRead s t).ie = t.ie := rfl
@[simp] theorem startRead_ip : (startRead s t).ip = t.ip := rfl
@[simp] theorem startRead_script : (startRead s t).script = t.script := rfl
@[simp] theorem startRead_draws : (startRead s t).draws = t.draws := rfl

/-! ### `unstuffInto` -/

@[simp] theorem unstuffInto_cfg : (unstuffInto s t).cfg = t.cfg := rfl
@[simp] theorem unstuffInto_fsm : (unstuffInto s t).fsm = t.fsm := rfl
@[simp] theorem unstuffInto_op : (unstuffInto s t).op = t.op := rfl
@[simp] theorem unstuffInto_arg : (unstuffInto s t).arg = t.arg := rfl
@[simp] theorem unstuffInto_txi : (unstuffInto s t).txi = t.txi := rfl
@[simp] theorem unstuffInto_mem : (unstuffInto s t).mem = t.mem.writeBytes unsBase (unstuff s.rawFrame) := rfl
@[simp] theorem unstuffInto_rawcnt : (unstuffInto s t).rawcnt = t.rawcnt := rfl
@[simp] theorem unstuffInto_unscnt : (unstuffInto s t).unscnt = BitVec.ofNat 8 (unstuff s.rawFrame).length := rfl
@[simp] theorem unstuffInto_rd : (unstuffInto s t).rd = t.rd := rfl
@[simp] theorem unstuffInto_rdvalid : (unstuffInto s t).rdvalid = t.rdvalid := rfl
@[simp] theorem unstuffInto_deadline : (unstuffInto s t).deadline = t.deadline := rfl
@[simp] theorem unstuffInto_dlcnt : (unstuffInto s t).dlcnt = t.dlcnt := rfl
@[simp] theorem unstuffInto_tmr : (unstuffInto s t).tmr = t.tmr := rfl
@[simp] theorem unstuffInto_ptmr : (unstuffInto s t).ptmr = t.ptmr := rfl
@[simp] theorem unstuffInto_tken : (unstuffInto s t).tken = t.tken := rfl
@[simp] theorem unstuffInto_ptick : (unstuffInto s t).ptick = t.ptick := rfl
@[simp] theorem unstuffInto_exitcode : (unstuffInto s t).exitcode = t.exitcode := rfl
@[simp] theorem unstuffInto_result : (unstuffInto s t).result = t.result := rfl
@[simp] theorem unstuffInto_errinfo : (unstuffInto s t).errinfo = t.errinfo := rfl
@[simp] theorem unstuffInto_ev : (unstuffInto s t).ev = t.ev := rfl
@[simp] theorem unstuffInto_ie : (unstuffInto s t).ie = t.ie := rfl
@[simp] theorem unstuffInto_ip : (unstuffInto s t).ip = t.ip := rfl
@[simp] theorem unstuffInto_script : (unstuffInto s t).script = t.script := rfl
@[simp] theorem unstuffInto_draws : (unstuffInto s t).draws = t.draws := rfl

/-! ### `countDeadline` -/

@[simp] theorem countDeadline_cfg : (countDeadline s i t).cfg = t.cfg := by unfold countDeadline; split <;> rfl
@[simp] theorem countDeadline_fsm : (countDeadline s i t).fsm = t.fsm := by unfold countDeadline; split <;> rfl
@[simp] theorem countDeadline_op : (countDeadline s i t).op = t.op := by unfold countDeadline; split <;> rfl
@[simp] theorem countDeadline_arg : (countDeadline s i t).arg = t.arg := by unfold countDeadline; split <;> rfl
@[simp] theorem countDeadline_txi : (countDeadline s i t).txi = t.txi := by unfold countDeadline; split <;> rfl
@[simp] theorem countDeadline_mem : (countDeadline s i t).mem = t.mem := by unfold countDeadline; split <;> rfl
@[simp] theorem countDeadline_rawcnt : (countDeadline s i t).rawcnt = t.rawcnt := by unfold countDeadline; split <;> rfl
@[simp] theorem countDeadline_unscnt : (countDeadline s i t).unscnt = t.unscnt := by unfold countDeadline; split <;> rfl
@[simp] theorem countDeadline_rd : (countDeadline s i t).rd = t.rd := by unfold countDeadline; split <;> rfl
@[simp] theorem countDeadline_rdvalid : (countDeadline s i t).rdvalid = t.rdvalid := by unfold countDeadline; split <;> rfl
@[simp] theorem countDeadline_deadline : (countDeadline s i t).deadline = t.deadline := by unfold countDeadline; split <;> rfl
@[simp] theorem countDeadline_dlcnt : (countDeadline s i t).dlcnt = if i.tick then s.dlcnt - 1 else t.dlcnt := by
  unfold countDeadline; split <;> rfl
@[simp] theorem countDeadline_tmr : (countDeadline s i t).tmr = t.tmr := by unfold countDeadline; split <;> rfl
@[simp] theorem countDeadline_ptmr : (countDeadline s i t).ptmr = t.ptmr := by unfold countDeadline; split <;> rfl
@[simp] theorem countDeadline_tken : (countDeadline s i t).tken = t.tken := by unfold countDeadline; split <;> rfl
@[simp] theorem countDeadline_ptick : (countDeadline s i t).ptick = t.ptick := by unfold countDeadline; split <;> rfl
@[simp] theorem countDeadline_exitcode : (countDeadline s i t).exitcode = t.exitcode := by unfold countDeadline; split <;> rfl
@[simp] theorem countDeadline_result : (countDeadline s i t).result = t.result := by unfold countDeadline; split <;> rfl
@[simp] theorem countDeadline_errinfo : (countDeadline s i t).errinfo = t.errinfo := by unfold countDeadline; split <;> rfl
@[simp] theorem countDeadline_ev : (countDeadline s i t).ev = t.ev := by unfold countDeadline; split <;> rfl
@[simp] theorem countDeadline_ie : (countDeadline s i t).ie = t.ie := by unfold countDeadline; split <;> rfl
@[simp] theorem countDeadline_ip : (countDeadline s i t).ip = t.ip := by unfold countDeadline; split <;> rfl
@[simp] theorem countDeadline_script : (countDeadline s i t).script = t.script := by unfold countDeadline; split <;> rfl
@[simp] theorem countDeadline_draws : (countDeadline s i t).draws = t.draws := by unfold countDeadline; split <;> rfl

/-! ### `startAct`: what a step has written before the state machine steps -/

@[simp] theorem startAct_cfg : (startAct s).st.cfg = s.cfg := by simp [startAct]
@[simp] theorem startAct_fsm : (startAct s).st.fsm = s.fsm := by simp [startAct]
@[simp] theorem startAct_op : (startAct s).st.op = s.op := by simp [startAct]
@[simp] theorem startAct_arg : (startAct s).st.arg = s.arg := by simp [startAct]
@[simp] theorem startAct_txi : (startAct s).st.txi = s.txi := by simp [startAct]
@[simp] theorem startAct_mem : (startAct s).st.mem = s.mem := by simp [startAct]
@[simp] theorem startAct_rawcnt : (startAct s).st.rawcnt = s.rawcnt := by simp [startAct]
@[simp] theorem startAct_unscnt : (startAct s).st.unscnt = s.unscnt := by simp [startAct]
@[simp] theorem startAct_rd : (startAct s).st.rd = s.rd := by simp [startAct]
@[simp] theorem startAct_rdvalid : (startAct s).st.rdvalid = s.rdvalid := by simp [startAct]
@[simp] theorem startAct_deadline : (startAct s).st.deadline = s.deadline := by simp [startAct]
@[simp] theorem startAct_dlcnt : (startAct s).st.dlcnt = s.dlcnt := by simp [startAct]
@[simp] theorem startAct_tmr : (startAct s).st.tmr = s.tmr := by simp [startAct]
@[simp] theorem startAct_ptmr : (startAct s).st.ptmr = if tickerFires s s.input then s.cfg.tPeriod else if s.tken && s.input.tick then s.ptmr - 1 else s.ptmr := by simp [startAct]
@[simp] theorem startAct_tken : (startAct s).st.tken = s.tken := by simp [startAct]
@[simp] theorem startAct_ptick : (startAct s).st.ptick = (tickerFires s s.input || (s.ptick && !tickerConsumed s)) := by simp [startAct]
@[simp] theorem startAct_exitcode : (startAct s).st.exitcode = s.exitcode := by simp [startAct]
@[simp] theorem startAct_result : (startAct s).st.result = s.result := by simp [startAct]
@[simp] theorem startAct_errinfo : (startAct s).st.errinfo = s.errinfo := by simp [startAct]
@[simp] theorem startAct_ev : (startAct s).st.ev = { s.ev with valid := false } := by simp [startAct]
@[simp] theorem startAct_ie : (startAct s).st.ie = s.ie := by simp [startAct]
@[simp] theorem startAct_ip : (startAct s).st.ip = s.ip := by simp [startAct]
@[simp] theorem startAct_script : (startAct s).st.script = s.advance.script := by simp [startAct]
@[simp] theorem startAct_draws : (startAct s).st.draws = s.advance.draws := by simp [startAct]
@[simp] theorem startAct_hw : (startAct s).hw = 0 := rfl

/-! ### `Act` -/

@[simp] theorem Act.set_st (a : Act) (b : BitVec 7) : (a.set b).st = a.st := rfl
@[simp] theorem Act.set_hw (a : Act) (b : BitVec 7) : (a.set b).hw = a.hw ||| b := rfl
@[simp] theorem Act.reject_st (a : Act) : a.reject.st = a.st := rfl
@[simp] theorem Act.reject_hw (a : Act) : a.reject.hw = a.hw ||| ipRej := rfl

@[simp] theorem Act.finish_cfg (w : BitVec 7) (a : Act) : (Act.finish s w a).cfg = a.st.cfg := rfl
@[simp] theorem Act.finish_fsm (w : BitVec 7) (a : Act) : (Act.finish s w a).fsm = a.st.fsm := rfl
@[simp] theorem Act.finish_op (w : BitVec 7) (a : Act) : (Act.finish s w a).op = a.st.op := rfl
@[simp] theorem Act.finish_arg (w : BitVec 7) (a : Act) : (Act.finish s w a).arg = a.st.arg := rfl
@[simp] theorem Act.finish_txi (w : BitVec 7) (a : Act) : (Act.finish s w a).txi = a.st.txi := rfl
@[simp] theorem Act.finish_mem (w : BitVec 7) (a : Act) : (Act.finish s w a).mem = a.st.mem := rfl
@[simp] theorem Act.finish_rawcnt (w : BitVec 7) (a : Act) : (Act.finish s w a).rawcnt = a.st.rawcnt := rfl
@[simp] theorem Act.finish_unscnt (w : BitVec 7) (a : Act) : (Act.finish s w a).unscnt = a.st.unscnt := rfl
@[simp] theorem Act.finish_rd (w : BitVec 7) (a : Act) : (Act.finish s w a).rd = a.st.rd := rfl
@[simp] theorem Act.finish_rdvalid (w : BitVec 7) (a : Act) : (Act.finish s w a).rdvalid = a.st.rdvalid := rfl
@[simp] theorem Act.finish_deadline (w : BitVec 7) (a : Act) : (Act.finish s w a).deadline = a.st.deadline := rfl
@[simp] theorem Act.finish_dlcnt (w : BitVec 7) (a : Act) : (Act.finish s w a).dlcnt = a.st.dlcnt := rfl
@[simp] theorem Act.finish_tmr (w : BitVec 7) (a : Act) : (Act.finish s w a).tmr = a.st.tmr := rfl
@[simp] theorem Act.finish_ptmr (w : BitVec 7) (a : Act) : (Act.finish s w a).ptmr = a.st.ptmr := rfl
@[simp] theorem Act.finish_tken (w : BitVec 7) (a : Act) : (Act.finish s w a).tken = a.st.tken := rfl
@[simp] theorem Act.finish_ptick (w : BitVec 7) (a : Act) : (Act.finish s w a).ptick = a.st.ptick := rfl
@[simp] theorem Act.finish_exitcode (w : BitVec 7) (a : Act) : (Act.finish s w a).exitcode = a.st.exitcode := rfl
@[simp] theorem Act.finish_result (w : BitVec 7) (a : Act) : (Act.finish s w a).result = a.st.result := rfl
@[simp] theorem Act.finish_errinfo (w : BitVec 7) (a : Act) : (Act.finish s w a).errinfo = a.st.errinfo := rfl
@[simp] theorem Act.finish_ev (w : BitVec 7) (a : Act) : (Act.finish s w a).ev = a.st.ev := rfl
@[simp] theorem Act.finish_ie (w : BitVec 7) (a : Act) : (Act.finish s w a).ie = a.st.ie := rfl
@[simp] theorem Act.finish_ip (w : BitVec 7) (a : Act) : (Act.finish s w a).ip = composeIp s.ip w a.hw := rfl
@[simp] theorem Act.finish_script (w : BitVec 7) (a : Act) : (Act.finish s w a).script = a.st.script := rfl
@[simp] theorem Act.finish_draws (w : BitVec 7) (a : Act) : (Act.finish s w a).draws = a.st.draws := rfl

end Sys2Proof.Machine
end

