-- ==== Sys2Proof/Laws/Step.lean ====
section
/-! SUPPORT. What the shared operations and one step can do, said once: the completion sequences, the host's part of a step,
and the inversion of `step`. -/

namespace Sys2Proof.Machine

/-! ### Interrupt bits -/

@[simp] theorem composeIp_quiet (ip : BitVec 7) : composeIp ip 0 0 = ip := by
  show (ip &&& BitVec.allOnes 7) ||| 0#7 = ip
  rw [BitVec.and_allOnes, BitVec.or_zero]

@[simp] theorem composeIp_set (ip hw : BitVec 7) : composeIp ip 0 hw = ip ||| hw := by
  show (ip &&& BitVec.allOnes 7) ||| hw = ip ||| hw
  rw [BitVec.and_allOnes]

/-! ### Completion (R235, R236, R238) -/

/-- `complete` outside `RUN` goes to `IDLE` with no operation in progress. -/
theorem complete_oneShot {s : State} (h : s.op ≠ .run) (k : Kind) (e : ErrCode) (c : Byte) (a : Act) :
    complete s k e c a = { st := { a.st with result := ⟨k, e, c⟩, fsm := .idle, op := .none }
                           hw := a.hw ||| completionBits k } := by
  simp [complete, h, Act.set]

/-- `complete` with a reading under `RUN` goes to `FWD`. -/
theorem complete_run_reading {s : State} (h : s.op = .run) (e : ErrCode) (c : Byte) (a : Act) :
    complete s .reading e c a = { st := { a.st with result := ⟨.reading, e, c⟩, fsm := .fwd }
                                  hw := a.hw ||| completionBits .reading } := by
  simp [complete, h, Act.set]

/-- `complete` without a reading under `RUN` goes to `COOL` with the cooldown loaded. -/
theorem complete_run_nodata {s : State} (h : s.op = .run) (e : ErrCode) (c : Byte) (a : Act) :
    complete s .nodata e c a =
      { st := { a.st with result := ⟨.nodata, e, c⟩, tmr := s.cfg.tCooldown, fsm := .cool }
        hw := a.hw ||| completionBits .nodata } := by
  simp [complete, h, Act.set]

/-- `complete` with an error under `RUN` goes to `LIVE`. -/
theorem complete_run_error {s : State} (h : s.op = .run) (e : ErrCode) (c : Byte) (a : Act) :
    complete s .error e c a = { st := { a.st with result := ⟨.error, e, c⟩, fsm := .live }
                                hw := a.hw ||| completionBits .error } := by
  simp [complete, h, Act.set]

/-- `raise` is the report followed by `complete(ERROR, ..)`. -/
theorem raiseError_oneShot {s : State} (h : s.op ≠ .run) (e : ErrCode) (c : Byte) (a : Act) :
    raiseError s e c a =
      { st := { a.st with errinfo := ⟨e, c⟩, ev := ⟨true, e, c⟩, result := ⟨.error, e, c⟩, fsm := .idle, op := .none }
        hw := a.hw ||| ipError ||| completionBits .error } := by
  simp [raiseError, complete_oneShot h, report, Act.set]

theorem raiseError_run {s : State} (h : s.op = .run) (e : ErrCode) (c : Byte) (a : Act) :
    raiseError s e c a =
      { st := { a.st with errinfo := ⟨e, c⟩, ev := ⟨true, e, c⟩, result := ⟨.error, e, c⟩, fsm := .live }
        hw := a.hw ||| ipError ||| completionBits .error } := by
  simp [raiseError, complete_run_error h, report, Act.set]

theorem fatal_eq (e : ErrCode) (c : Byte) (a : Act) :
    fatal e c a =
      { st := { a.st with errinfo := ⟨e, c⟩, ev := ⟨true, e, c⟩, result := ⟨.error, e, c⟩, fsm := .exited,
                          exitcode := true, op := .none, tken := false }
        hw := a.hw ||| ipError ||| (ipDone ||| ipExited) } := by
  simp [fatal, report, Act.set]

/-! ### One step -/

/-- A step of the clock that answers a next state comes from a step of the state machine. -/
theorem clockStep_next {s t : State} {w : BitVec 7} {host : Act → Act} (h : clockStep s w host = .next t) :
    ∃ a, fsmStep s s.input (startAct s) = .ok a ∧ t = Act.finish s w (host a) := by
  unfold clockStep at h
  split at h
  · cases h
  · rename_i a ha; cases h; exact ⟨a, ha, rfl⟩

/-- The clock step when the state machine has a step. -/
theorem clockStep_ok {s : State} {a : Act} (h : fsmStep s s.input (startAct s) = .ok a) (w : BitVec 7)
    (host : Act → Act) : clockStep s w host = .next (Act.finish s w (host a)) := by
  simp [clockStep, h]

/-- The accept sequences (R97) of opcodes 1 to 8 as one relation: `Accepts s eff` says that `eff` is the accept sequence of
some well-formed command. -/
def Accepts (s : State) (eff : State → State) : Prop :=
  (eff = fun t => { accept .txstart 0 .txs t with txi := 0 }) ∨
  (eff = fun t => { accept .txreq 0 .txr t with txi := 0 }) ∨
  (eff = accept .drain 0 .drn) ∨
  (∃ n : Byte, n.toNat ≤ s.cfg.rawCap ∧ eff = fun t => startRead s (accept .readx n .rdx t)) ∨
  (eff = accept .unstuff 0 .dec) ∨
  (∃ n : Byte, eff = accept .decode n .dec) ∨
  (eff = fun t => { accept .sample 0 .drn t with rawcnt := 0, unscnt := 0, rdvalid := false }) ∨
  (eff = fun t => { accept .run 0 .txs t with txi := 0 })

/-- What the host does in a step that is neither a reset nor an accepted `STOP`: nothing, a write to a register, a
rejected command, or in `IDLE` an accepted one. -/
inductive HostPart (s : State) : BitVec 7 → (Act → Act) → Prop where
  | quiet : HostPart s 0 id
  | write : HostPart s (clearMask s.input) (hostStore s s.input.hWidx s.input.hWdata)
  | reject : HostPart s 0 Act.reject
  | accept (eff : State → State) (hidle : s.fsm = .idle) (heff : Accepts s eff) :
      HostPart s 0 (fun a => { a with st := eff a.st })

/-- What a command step can do. -/
theorem commandStep_next {s t : State} {eff : State → State} (heff : Accepts s eff) (h : commandStep s eff = .next t) :
    ∃ w host, HostPart s w host ∧ clockStep s w host = .next t := by
  unfold commandStep at h
  split at h
  · rename_i hi; exact ⟨_, _, .accept eff hi heff, h⟩
  · exact ⟨_, _, .reject, h⟩

/-- What an operation's meaning can do: it is an accepted `STOP`, or a step of the clock with a host's part. -/
theorem exec_next {i : Instr} {s t : State} (h : exec i s = .next t) :
    (i = .stop ∧ s.op = .run ∧ t = Act.finish s 0 (stopAct s)) ∨
    ∃ w host, HostPart s w host ∧ clockStep s w host = .next t := by
  cases i with
  | txstart => exact .inr (commandStep_next (.inl rfl) h)
  | txreq => exact .inr (commandStep_next (.inr (.inl rfl)) h)
  | drain => exact .inr (commandStep_next (.inr (.inr (.inl rfl))) h)
  | readx n =>
    simp only [exec, execReadx] at h
    split at h
    · rename_i hn; exact .inr (commandStep_next (.inr (.inr (.inr (.inl ⟨n, hn, rfl⟩)))) h)
    · exact .inr ⟨_, _, .reject, h⟩
  | unstuff => exact .inr (commandStep_next (.inr (.inr (.inr (.inr (.inl rfl))))) h)
  | decode n => exact .inr (commandStep_next (.inr (.inr (.inr (.inr (.inr (.inl ⟨n, rfl⟩)))))) h)
  | sample => exact .inr (commandStep_next (.inr (.inr (.inr (.inr (.inr (.inr (.inl rfl))))))) h)
  | run => exact .inr (commandStep_next (.inr (.inr (.inr (.inr (.inr (.inr (.inr rfl))))))) h)
  | stop =>
    simp only [exec, execStop, stopStep] at h
    split at h
    · rename_i hr; cases h; exact .inl ⟨rfl, hr, rfl⟩
    · exact .inr ⟨_, _, .reject, h⟩

/-- What one step can do: a reset, an accepted `STOP`, or a step of the clock with a host's part. -/
theorem step_next {s t : State} (h : step s = .next t) :
    (s.input.rst = true ∧ t = resetAct s) ∨
    (s.input.rst = false ∧ s.op = .run ∧ t = Act.finish s 0 (stopAct s)) ∨
    (s.input.rst = false ∧ ∃ w host a, HostPart s w host ∧ fsmStep s s.input (startAct s) = .ok a ∧
      t = Act.finish s w (host a)) := by
  have clock : ∀ {w host}, HostPart s w host → clockStep s w host = .next t → s.input.rst = false →
      (s.input.rst = false ∧ ∃ w host a, HostPart s w host ∧ fsmStep s s.input (startAct s) = .ok a ∧
        t = Act.finish s w (host a)) := fun hp hc hr => by
    obtain ⟨a, ha, ht⟩ := clockStep_next hc
    exact ⟨hr, _, _, a, hp, ha, ht⟩
  unfold step at h
  split at h
  · rename_i hr; cases h; exact .inl ⟨hr, rfl⟩
  · rename_i hr
    have hr : s.input.rst = false := by simpa using hr
    split at h
    · split at h
      · rcases exec_next h with ⟨-, ho, ht⟩ | ⟨w, host, hp, hc⟩
        · exact .inr (.inl ⟨hr, ho, ht⟩)
        · exact .inr (.inr (clock hp hc hr))
      · exact .inr (.inr (clock .reject h hr))
    · split at h
      · exact .inr (.inr (clock .write h hr))
      · exact .inr (.inr (clock .quiet h hr))

end Sys2Proof.Machine
end

