-- ==== Sys2Proof/Laws/Host.lean ====
section
/-! SUPPORT. What one step is, by what the host does in it: the step without a write, with a rejected command, with a write to
a register, and the step in `IDLE`. A proof about one step cites these and unfolds the step of one state of the state machine
only. -/

namespace Sys2Proof.Machine

open Sys2Proof.Safety

theorem startAct_eq (s : State) : startAct s = ⟨ticked s, 0⟩ := rfl

/-- Item (6) of R9 when the host clears nothing. -/
theorem finish_zero (s : State) (a : Act) : Act.finish s 0 a = { a.st with ip := s.ip ||| a.hw } := by
  simp only [Act.finish, composeIp_set]

/-- The clock step by the outcome of the state machine's part. -/
theorem clockStep_zero (s : State) (host : Act → Act) :
    clockStep s 0 host = match fsmStep s s.input ⟨ticked s, 0⟩ with
      | .error f => .fault f
      | .ok a => .next { (host a).st with ip := s.ip ||| (host a).hw } := by
  unfold clockStep
  rw [startAct_eq]
  cases fsmStep s s.input ⟨ticked s, 0⟩ with
  | error f => rfl
  | ok a => simp only [finish_zero]

/-- A step with no reset and no host write. -/
theorem step_quiet {s : State} (h : HostQuiet s) : step s = quietStep s := by
  simp [step, h.1, h.2, hostCommand]

/-- The quiet step by the outcome of the state machine's part. -/
theorem quietStep_eq (s : State) :
    quietStep s = match fsmStep s s.input ⟨ticked s, 0⟩ with
      | .error f => .fault f
      | .ok a => .next { a.st with ip := s.ip ||| a.hw } := clockStep_zero s id

/-- A rejected command leaves what the quiet step leaves, and `IP.REJ` (R94, R95). -/
theorem rejectStep_of_quiet {s t : State} (h : quietStep s = .next t) :
    rejectStep s = .next { t with ip := t.ip ||| ipRej } := by
  rw [quietStep_eq] at h
  rw [rejectStep, clockStep_zero]
  split at h
  · cases h
  · rename_i ha
    cases h
    simp only [Act.reject, Act.set, BitVec.or_assoc]

/-- A step with a host write to a word other than `CMD` (R66 to R73). -/
theorem step_write {s : State} {idx : BitVec 8} {w : Word} (h : HostWritesWord s idx w) (hn : idx ≠ 0#8) :
    step s = clockStep s (if idx.toNat = 0x06 then w.setWidth 7 else 0) (hostStore s idx w) := by
  obtain ⟨h1, h2, rfl, rfl⟩ := h
  simp [step, h1, hostCommand, h2, hn, writeStep, clearMask]

/-- A step with a host write to `CMD` of a word that the decoder reads as an operation (R67, R92). -/
theorem step_command {s : State} {w : Word} {i : Instr} (h : HostWritesWord s 0x00 w) (hd : decode s.cfg.rawCap w = .ok i) :
    step s = exec i s := by
  obtain ⟨h1, h2, h3, rfl⟩ := h
  simp [step, h1, hostCommand, h2, h3, hd]

/-- A step with a host write of a reserved word to `CMD` (R94). -/
theorem step_reserved {s : State} {w : Word} {e : Reserved} (h : HostWritesWord s 0x00 w)
    (hd : decode s.cfg.rawCap w = .error e) : step s = rejectStep s := by
  obtain ⟨h1, h2, h3, rfl⟩ := h
  simp [step, h1, hostCommand, h2, h3, hd, reservedStep]

/-- With the ticker off and no tick pending to be consumed, only the event is cleared before the state machine steps. -/
theorem ticked_off {s : State} (ht : s.tken = false) (hf : s.fsm ≠ .waitp) :
    ticked s = { s.advance with ev := { s.ev with valid := false } } := by
  have h1 : s.advance.ptmr = s.ptmr := by simp
  have h2 : s.advance.ptick = s.ptick := by simp
  have h3 : s.advance.ev = s.ev := by simp
  simp only [ticked, startAct, ticker, clearEvent, tickerFires, tickerConsumed, ht, hf]
  generalize s.advance = t at *
  cases t
  simp_all

/-- A clock step in `IDLE` with the ticker off: only the event is cleared, beside the host's part. -/
theorem clockStep_idle {s : State} (hf : s.fsm = .idle) (ht : s.tken = false) (w : BitVec 7) (host : Act → Act) :
    clockStep s w host =
      .next (Act.finish s w (host ⟨{ s.advance with ev := { s.ev with valid := false } }, 0⟩)) := by
  rw [← ticked_off ht (by simp [hf]), ← startAct_eq]
  exact clockStep_ok (by simp [fsmStep, hf, legalPair]) w host

end Sys2Proof.Machine
end

