-- ==== Sys2Proof/Laws/PerInstr.lean ====
section
/-! SUPPORT. What holds of every operation as syntax, one lemma per constructor: its word lies in its row of
spec/opcode_table.json, `(w AND mask) = match` (spec/30_encoding.md R92), with its operand in bits [15:8] (R91). -/

namespace Sys2Proof.Laws.EncodeTable

/-- The row's `mask` and `match`, and the operand its word carries. -/
def row : Instr → Word × Word × Byte
  | .txstart  => (0xFFFFFFFF, 0x00000001, 0)
  | .txreq    => (0xFFFFFFFF, 0x00000002, 0)
  | .drain    => (0xFFFFFFFF, 0x00000003, 0)
  | .readx n  => (0xFFFF00FF, 0x00000004, n)
  | .unstuff  => (0xFFFFFFFF, 0x00000005, 0)
  | .decode n => (0xFFFF00FF, 0x00000006, n)
  | .sample   => (0xFFFFFFFF, 0x00000007, 0)
  | .run      => (0xFFFFFFFF, 0x00000008, 0)
  | .stop     => (0xFFFFFFFF, 0x00000009, 0)

/-- The word of the operation lies in its row. -/
def Statement (i : Instr) : Prop := encode i &&& (row i).1 = (row i).2.1 ∧ nField (encode i) = (row i).2.2

theorem txstart : Statement .txstart := by unfold Statement; decide
theorem txreq : Statement .txreq := by unfold Statement; decide
theorem drain : Statement .drain := by unfold Statement; decide
theorem readx (n : Byte) : Statement (.readx n) := by unfold Statement; revert n; decide
theorem unstuff : Statement .unstuff := by unfold Statement; decide
theorem decode (n : Byte) : Statement (.decode n) := by unfold Statement; revert n; decide
theorem sample : Statement .sample := by unfold Statement; decide
theorem run : Statement .run := by unfold Statement; decide
theorem stop : Statement .stop := by unfold Statement; decide

end Sys2Proof.Laws.EncodeTable
end

