-- ==== Sys2Proof/Laws/Safety.lean ====
section
/-! SUPPORT. The invariants depend on few fields: each holds of every state that agrees on those fields, and so is kept by
every update of the others. -/

namespace Sys2Proof.Safety

open Sys2Proof.Machine

theorem BufferInv.congr {s t : State} (h : BufferInv s) (hc : t.cfg = s.cfg) (hm : t.mem = s.mem)
    (hr : t.rawcnt = s.rawcnt) (hu : t.unscnt = s.unscnt) : BufferInv t := by
  obtain ⟨h1, h2, h3, h4⟩ := h
  constructor <;> simp only [hc, hm, hr, hu] <;> assumption

theorem ControlInv.congr {s t : State} (h : ControlInv s) (hc : t.cfg = s.cfg) (hf : t.fsm = s.fsm) (ho : t.op = s.op)
    (ha : t.arg = s.arg) (hx : t.txi = s.txi) (hr : t.rawcnt = s.rawcnt) (hk : t.tken = s.tken)
    (hp : t.ptick = s.ptick) (hm : t.ptmr = s.ptmr) : ControlInv t := by
  obtain ⟨h1, h2, h3, h4, h5, h6, h7, h8, h9, h10, h11⟩ := h
  constructor <;> simp only [hc, hf, ho, ha, hx, hr, hk, hp, hm] <;> assumption

theorem OutcomeInv.congr {s t : State} (h : OutcomeInv s) (hc : t.cfg = s.cfg) (hf : t.fsm = s.fsm)
    (hr : t.result = s.result) (he : t.errinfo = s.errinfo) (hv : t.ev.code = s.ev.code) (hn : t.ev.count = s.ev.count)
    (hd : t.rd = s.rd) (hy : t.rdvalid = s.rdvalid) : OutcomeInv t := by
  obtain ⟨h1, h2, h3, h4, h5, h6⟩ := h
  constructor <;> simp only [hc, hf, hr, he, hv, hn, hd, hy] <;> assumption

/-- The invariants do not look at `IP` (R241). -/
theorem Inv.finish {s : State} {a : Act} (h : Inv a.st) (w : BitVec 7) : Inv (Act.finish s w a) :=
  ⟨h.buffers.congr rfl rfl rfl rfl, h.control.congr rfl rfl rfl rfl rfl rfl rfl rfl rfl,
    h.outcome.congr rfl rfl rfl rfl rfl rfl rfl rfl⟩

/-- The ticker keeps `PTMR` between 1 and `T_PERIOD`, and fires only while it is on (R252). -/
theorem ControlInv.startAct {s : State} (h : ControlInv s) : ControlInv (Machine.startAct s).st := by
  have hc := s.cfg.tPeriod_pos
  obtain ⟨h1, h2, h3, h4, h5, h6, h7, h8, h9, h10, h11⟩ := h
  refine ⟨by simpa, by simpa, by simpa, by simpa, by simpa, by simpa, ?_, ?_, by simpa, by simpa, by simpa⟩
  · simp only [startAct_ptick, startAct_tken, tickerFires, Bool.or_eq_true, Bool.and_eq_true]
    rintro (h | h)
    · exact h.1.1
    · exact h7 h.1
  · simp only [startAct_tken, startAct_ptmr, startAct_cfg]
    intro ht
    have hr := h8 ht
    by_cases hf : tickerFires s s.input = true
    · rw [if_pos hf]; exact ⟨hc, le_refl _⟩
    · rw [if_neg hf]
      by_cases hi : s.input.tick = true
      · rw [if_pos (by simp [ht, hi])]
        have hgt : ¬ s.ptmr.toNat ≤ 1 := by simpa [tickerFires, ht, hi] using hf
        have hsub : (s.ptmr - 1).toNat = s.ptmr.toNat - 1 := by
          rw [BitVec.toNat_sub_of_le (by rw [BitVec.le_def]; simpa using hr.1)]; rfl
        omega
      · rw [if_neg (by simp [hi])]; exact hr

/-- What a step has written before the state machine steps keeps the invariants. -/
theorem Inv.startAct {s : State} (h : Inv s) : Inv (Machine.startAct s).st :=
  ⟨h.buffers.congr (by simp) (by simp) (by simp) (by simp), h.control.startAct,
    h.outcome.congr (by simp) (by simp) (by simp) (by simp) (by simp) (by simp) (by simp) (by simp)⟩

end Sys2Proof.Safety
end

