-- ==== Sys2Proof/Laws/States.lean ====
section
/-! SUPPORT. What the shared operations of the state machine do to the invariants, and what no state's step ever writes. -/

namespace Sys2Proof.Machine

open Sys2Proof.Safety

/-! ### What the state machine never writes -/

/-- The elements no state's step writes: the parameters, `ARG`, `DEADLINE`, `IE`, `IP` (composed at the end of the step, R242)
and the inputs still to come. -/
structure SameFixed (s t : State) : Prop where
  cfg : t.cfg = s.cfg
  arg : t.arg = s.arg
  deadline : t.deadline = s.deadline
  ie : t.ie = s.ie
  ip : t.ip = s.ip
  script : t.script = s.script
  draws : t.draws = s.draws

theorem SameFixed.refl (s : State) : SameFixed s s := ⟨rfl, rfl, rfl, rfl, rfl, rfl, rfl⟩

theorem SameFixed.trans {s t u : State} (h : SameFixed s t) (k : SameFixed t u) : SameFixed s u :=
  ⟨k.cfg.trans h.cfg, k.arg.trans h.arg, k.deadline.trans h.deadline, k.ie.trans h.ie, k.ip.trans h.ip,
    k.script.trans h.script, k.draws.trans h.draws⟩

theorem complete_fixed (s : State) (k : Kind) (e : ErrCode) (c : Byte) (a : Act) :
    SameFixed a.st (complete s k e c a).st := by
  by_cases hr : s.op = .run
  · cases k <;> simp only [complete, hr, if_true, Act.set_st] <;> exact ⟨rfl, rfl, rfl, rfl, rfl, rfl, rfl⟩
  · rw [complete_oneShot hr]; exact ⟨rfl, rfl, rfl, rfl, rfl, rfl, rfl⟩

theorem report_fixed (e : ErrCode) (c : Byte) (a : Act) : SameFixed a.st (report e c a).st :=
  ⟨rfl, rfl, rfl, rfl, rfl, rfl, rfl⟩

theorem raiseError_fixed (s : State) (e : ErrCode) (c : Byte) (a : Act) : SameFixed a.st (raiseError s e c a).st :=
  (report_fixed e c a).trans (complete_fixed s _ e c _)

theorem fatal_fixed (e : ErrCode) (c : Byte) (a : Act) : SameFixed a.st (fatal e c a).st := by
  rw [fatal_eq]; exact ⟨rfl, rfl, rfl, rfl, rfl, rfl, rfl⟩

theorem decodeInto_fixed (s : State) (p : List Byte) (a : Act) : SameFixed a.st (decodeInto s p a).st := by
  by_cases hp : p.length < 40
  · rw [decodeInto_short hp]
    refine SameFixed.trans ?_ (raiseError_fixed s _ _ _); exact ⟨rfl, rfl, rfl, rfl, rfl, rfl, rfl⟩
  · rw [decodeInto_full (by omega)]
    refine SameFixed.trans ?_ (complete_fixed s _ _ _ _); exact ⟨rfl, rfl, rfl, rfl, rfl, rfl, rfl⟩

theorem unstuffInto_fixed (s t : State) : SameFixed t (unstuffInto s t) := ⟨rfl, rfl, rfl, rfl, rfl, rfl, rfl⟩

theorem countDeadline_fixed (s : State) (i : Inputs) (t : State) : SameFixed t (countDeadline s i t) := by
  constructor <;> simp

/-- The step of `TXS` and `TXR` while a byte is left to send (R124). -/
theorem txStep_ok {len : Nat} {s : State} (h : s.txi.toNat < len) (i : Inputs) (a : Act) :
    txStep len s i a = .ok (
      if i.txErr then
        (if s.fsm = .txs then fatal .sensorStartFailed (s.txi.setWidth 8) a
          else raiseError s .requestFailed (s.txi.setWidth 8) a)
      else if i.txReady then
        (if s.txi.toNat = len - 1 then txDone s { a with st := { a.st with txi := s.txi + 1 } }
          else { a with st := { a.st with txi := s.txi + 1 } })
      else a) := by
  unfold txStep
  rw [if_neg (by omega)]
  split <;> (try split) <;> simp_all

theorem txDone_fixed (s : State) (a : Act) : SameFixed a.st (txDone s a).st := by
  unfold txDone
  split
  · split
    · exact ⟨rfl, rfl, rfl, rfl, rfl, rfl, rfl⟩
    · exact complete_fixed s _ _ _ _
  · split
    · exact complete_fixed s _ _ _ _
    · exact ⟨rfl, rfl, rfl, rfl, rfl, rfl, rfl⟩

theorem txStep_fixed {len : Nat} {s : State} {i : Inputs} {a b : Act} (h : txStep len s i a = .ok b) :
    SameFixed a.st b.st := by
  have hx : s.txi.toNat < len := by
    by_contra hn; unfold txStep at h; rw [if_pos (by omega)] at h; cases h
  rw [txStep_ok hx] at h
  cases h
  split
  · split
    · exact fatal_fixed _ _ _
    · exact raiseError_fixed s _ _ _
  · split
    · split
      · refine SameFixed.trans ?_ (txDone_fixed s _); exact ⟨rfl, rfl, rfl, rfl, rfl, rfl, rfl⟩
      · exact ⟨rfl, rfl, rfl, rfl, rfl, rfl, rfl⟩
    · exact SameFixed.refl _

theorem drnStep_fixed (s : State) (i : Inputs) (a : Act) : SameFixed a.st (drnStep s i a).st := by
  unfold drnStep
  split
  · exact SameFixed.refl _
  · split
    · exact complete_fixed s _ _ _ _
    · exact ⟨rfl, rfl, rfl, rfl, rfl, rfl, rfl⟩

theorem rdxFull_fixed (s : State) (a : Act) : SameFixed a.st (rdxFull s a).st := by
  unfold rdxFull
  split
  · exact complete_fixed s _ _ _ _
  · split
    · exact raiseError_fixed s _ _ _
    · exact ⟨rfl, rfl, rfl, rfl, rfl, rfl, rfl⟩

theorem rdxStep_fixed {s : State} {i : Inputs} {a b : Act} (h : rdxStep s i a = .ok b) : SameFixed a.st b.st := by
  unfold rdxStep at h
  split at h
  · cases h; exact rdxFull_fixed s a
  split at h
  · cases h; exact raiseError_fixed s _ _ _
  split at h
  · cases h; exact raiseError_fixed s _ _ _
  · cases h; split <;> exact complete_fixed s _ _ _ _
  · split at h
    · cases h; refine SameFixed.trans ?_ (countDeadline_fixed s i _); exact ⟨rfl, rfl, rfl, rfl, rfl, rfl, rfl⟩
    · cases h
  · cases h; exact countDeadline_fixed s i _

theorem decStep_fixed {s : State} {a b : Act} (h : decStep s a = .ok b) : SameFixed a.st b.st := by
  have hu := unstuffInto_fixed s a.st
  unfold decStep at h
  split at h
  · split at h
    · cases h; exact decodeInto_fixed s _ a
    · cases h
  · split at h
    · cases h
      split
      · exact hu.trans (complete_fixed s _ _ _ ⟨unstuffInto s a.st, a.hw⟩)
      · exact hu.trans (decodeInto_fixed s _ ⟨unstuffInto s a.st, a.hw⟩)
    · cases h

/-- No state's step writes a fixed element. -/
theorem fsmStep_fixed {s : State} {i : Inputs} {a b : Act} (h : fsmStep s i a = .ok b) : SameFixed a.st b.st := by
  unfold fsmStep at h
  split at h
  · split at h
    · cases h; exact SameFixed.refl _
    · exact txStep_fixed h
    · exact txStep_fixed h
    · cases h; exact drnStep_fixed s i a
    · exact rdxStep_fixed h
    · exact decStep_fixed h
    · cases h; unfold settleStep
      repeat' split
      all_goals exact ⟨rfl, rfl, rfl, rfl, rfl, rfl, rfl⟩
    · cases h; unfold waitpStep; split <;> exact ⟨rfl, rfl, rfl, rfl, rfl, rfl, rfl⟩
    · cases h; unfold fwdStep
      repeat' split
      all_goals exact ⟨rfl, rfl, rfl, rfl, rfl, rfl, rfl⟩
    · cases h; unfold coolStep
      repeat' split
      all_goals exact ⟨rfl, rfl, rfl, rfl, rfl, rfl, rfl⟩
    · cases h; exact ⟨rfl, rfl, rfl, rfl, rfl, rfl, rfl⟩
    · cases h; exact SameFixed.refl _
  · cases h

/-- The state machine does not look at the inputs of later steps. -/
@[simp] theorem fsmStep_present (s : State) (j i : Inputs) (a : Act) : fsmStep (s.present j) i a = fsmStep s i a := rfl

/-! ### The invariants through the shared operations -/

theorem complete_buffers {s : State} {a : Act} (h : BufferInv a.st) (k : Kind) (e : ErrCode) (c : Byte) :
    BufferInv (complete s k e c a).st := by
  by_cases hr : s.op = .run
  · cases k <;> simp only [complete, hr, if_true, Act.set_st] <;> exact h.congr rfl rfl rfl rfl
  · rw [complete_oneShot hr]; exact h.congr rfl rfl rfl rfl

theorem raiseError_buffers {s : State} {a : Act} (h : BufferInv a.st) (e : ErrCode) (c : Byte) :
    BufferInv (raiseError s e c a).st :=
  complete_buffers (a := report e c a) (h.congr rfl rfl rfl rfl) _ _ _

/-- Storing the unstuffed frame stays inside the cells of `UNS` (R27). -/
theorem unstuffInto_buffers {s t : State} (h : BufferInv t) (hc : t.cfg = s.cfg) (hr : s.rawcnt.toNat ≤ s.cfg.rawCap) :
    BufferInv (unstuffInto s t) := by
  have hl := unstuff_rawFrame_length s
  have hcap := s.cfg.rawCap_le
  refine ⟨Memory.writeBytes_wf h.mem_wf _ _, fun c hcm => ?_, h.rawcnt_le, ?_⟩
  · rcases Memory.mem_writeBytes hcm with h1 | h1
    · exact h.mem_cells c h1
    · simp only [isRawIndex, isUnsIndex, Bool.or_eq_true, decide_eq_true_eq, unstuffInto_cfg, hc]
      right; omega
  · simp only [unstuffInto_unscnt, unstuffInto_cfg, hc, BitVec.toNat_ofNat]
    rw [Nat.mod_eq_of_lt (by omega)]; omega

theorem decodeInto_buffers {s : State} {a : Act} (h : BufferInv a.st) (p : List Byte) :
    BufferInv (decodeInto s p a).st := by
  by_cases hp : p.length < 40
  · rw [decodeInto_short hp]
    exact raiseError_buffers (a := { a with st := { a.st with rdvalid := false } }) (h.congr rfl rfl rfl rfl) _ _
  · rw [decodeInto_full (by omega)]
    exact complete_buffers (a := { a with st := { a.st with rd := reading s.cfg p, rdvalid := true } })
      (h.congr rfl rfl rfl rfl) _ _ _

/-- `complete` ends an operation, or goes on in `RUN` with the ticker on. -/
theorem complete_control {s : State} {a : Act} (h : ControlInv a.st) (hop : a.st.op = s.op) (hf : a.st.fsm = s.fsm)
    (hs : s.op = .run → s.fsm ≠ .txs ∧ s.fsm ≠ .settle) (k : Kind) (e : ErrCode) (c : Byte) :
    ControlInv (complete s k e c a).st := by
  by_cases hr : s.op = .run
  · have hk : a.st.tken = true := h.tken_iff.2 ⟨hop.trans hr, by rw [hf]; exact hs hr⟩
    obtain ⟨h1, h2, h3, h4, h5, h6, h7, h8, h9, h10, h11⟩ := h
    have ho := hop.trans hr
    cases k <;> simp only [complete, hr, if_true, Act.set_st] <;>
      exact ⟨h1, by simp, by simp, by simp [legalPair, ho], by simp [ho], by simp [ho, hk], h7, h8, by simp, by simp,
        by simp⟩
  · rw [complete_oneShot hr]
    have hk : a.st.tken = false := by
      by_contra hx; exact hr (hop ▸ (h.tken_iff.1 (by simpa using hx)).1)
    obtain ⟨h1, h2, h3, h4, h5, h6, h7, h8, h9, h10, h11⟩ := h
    exact ⟨h1, by simp, by simp, by simp [legalPair], by simp, by simp [hk], h7, h8, by simp, by simp, by simp⟩

theorem raiseError_control {s : State} {a : Act} (h : ControlInv a.st) (hop : a.st.op = s.op) (hf : a.st.fsm = s.fsm)
    (hs : s.op = .run → s.fsm ≠ .txs ∧ s.fsm ≠ .settle) (e : ErrCode) (c : Byte) :
    ControlInv (raiseError s e c a).st :=
  complete_control (a := report e c a) (h.congr rfl rfl rfl rfl rfl rfl rfl rfl rfl) hop hf hs _ _ _

theorem decodeInto_control {s : State} {a : Act} (h : ControlInv a.st) (hop : a.st.op = s.op) (hf : a.st.fsm = s.fsm)
    (hs : s.op = .run → s.fsm ≠ .txs ∧ s.fsm ≠ .settle) (p : List Byte) : ControlInv (decodeInto s p a).st := by
  by_cases hp : p.length < 40
  · rw [decodeInto_short hp]
    exact raiseError_control (a := { a with st := { a.st with rdvalid := false } })
      (h.congr rfl rfl rfl rfl rfl rfl rfl rfl rfl) hop hf hs _ _
  · rw [decodeInto_full (by omega)]
    exact complete_control (a := { a with st := { a.st with rd := reading s.cfg p, rdvalid := true } })
      (h.congr rfl rfl rfl rfl rfl rfl rfl rfl rfl) hop hf hs _ _ _

/-- A code that a step may write (R231). -/
abbrev UsedCode (e : ErrCode) : Prop := e ≠ .configMissing ∧ e ≠ .transportOpenFailed ∧ e ≠ .shortFrame

theorem complete_outcome {s : State} {a : Act} (h : OutcomeInv a.st) {k : Kind} {e : ErrCode} {c : Byte}
    (hk : e ≠ .none ↔ k = .error) (he : UsedCode e)
    (hr : s.op = .run → k = .reading → a.st.rdvalid = true ∧ e = .none ∧ c = 40) :
    OutcomeInv (complete s k e c a).st := by
  obtain ⟨h1, h2, h3, h4, h5, h6⟩ := h
  by_cases ho : s.op = .run
  · cases k <;> simp only [complete, ho, if_true, Act.set_st] <;> refine ⟨?_, hk, he, h4, h5, h6⟩ <;> simp
    have := hr ho rfl
    simp_all
  · rw [complete_oneShot ho]
    exact ⟨by simp, hk, he, h4, h5, h6⟩

theorem report_outcome {a : Act} (h : OutcomeInv a.st) {e : ErrCode} (he : UsedCode e) (c : Byte) :
    OutcomeInv (report e c a).st :=
  ⟨h.fwd_reading, h.result_err, h.result_used, he, ⟨rfl, rfl⟩, h.rdvalid_reading⟩

theorem raiseError_outcome {s : State} {a : Act} (h : OutcomeInv a.st) {e : ErrCode} (h0 : e ≠ .none) (he : UsedCode e)
    (c : Byte) : OutcomeInv (raiseError s e c a).st :=
  complete_outcome (report_outcome h he c) (by simp [h0]) he (by simp)

theorem decodeInto_outcome {s : State} {a : Act} (h : OutcomeInv a.st) (hc : a.st.cfg = s.cfg) (hf : a.st.fsm ≠ .fwd)
    (p : List Byte) : OutcomeInv (decodeInto s p a).st := by
  by_cases hp : p.length < 40
  · rw [decodeInto_short hp]
    exact raiseError_outcome (a := { a with st := { a.st with rdvalid := false } })
      ⟨by simp [hf], h.2, h.3, h.4, h.5, by simp⟩ (by simp) (by simp [UsedCode]) _
  · rw [decodeInto_full (by omega)]
    exact complete_outcome (a := { a with st := { a.st with rd := reading s.cfg p, rdvalid := true } })
      ⟨by simp [hf], h.2, h.3, h.4, h.5, fun _ => ⟨p, by simp only [hc]; exact decodePayload_some (by omega)⟩⟩
      (by simp) (by simp [UsedCode]) (by simp)

end Sys2Proof.Machine
end

