-- ==== Sys2Proof/Machine/HostScript.lean ====
section
/-! DEFINITION. Host scripts: the notation of spec/30_encoding.md R106 as data, the pseudo-operations of R107 as their fixed
expansions, and the run of a script beside an environment. Nothing of the machine depends on this file. -/

namespace Sys2Proof.Machine

/-- An action of a host script (R106). -/
inductive HostAction where
  /-- `W idx, value`: a host write in one step -/
  | write (idx : BitVec 8) (value : Word)
  /-- `R idx`: a host read in one step -/
  | read (idx : BitVec 8)
  /-- `WAIT IDLE`: repeat `R 0x01` until bit 8 (`BUSY`) reads 0 -/
  | waitIdle
deriving DecidableEq, Repr

/-- `CMD word`, for the word of an operation (R106). -/
def HostAction.cmd (i : Instr) : HostAction := .write 0x00 (encode i)

/-- The writes of a list of bytes to consecutive words from `idx` on. -/
def writeCells (idx : Nat) : List Byte → List HostAction
  | [] => []
  | b :: t => .write (BitVec.ofNat 8 idx) (b.setWidth 32) :: writeCells (idx + 1) t

/-- `LOADRAW` (R107): the bytes to `RAW[0]` on, then their number to `RAWCNT`. -/
def loadRaw (bs : List Byte) : List HostAction :=
  writeCells rawBase bs ++ [.write 0x07 (BitVec.ofNat 32 bs.length)]

/-- `LOADUNS` (R107): the bytes to `UNS[0]` on, then their number to `UNSCNT`. -/
def loadUns (bs : List Byte) : List HostAction :=
  writeCells unsBase bs ++ [.write 0x08 (BitVec.ofNat 32 bs.length)]

/-- `DECODEFRAME` (R107): `UNSTUFF`, `WAIT IDLE`, `DECODE 5`, `WAIT IDLE`. -/
def decodeFrame : List HostAction := [.cmd .unstuff, .waitIdle, .cmd (.decode 5), .waitIdle]

/-- `CYCLE` (R107): the stand-alone form of `SAMPLE`. -/
def cycleScript : List HostAction :=
  [.cmd .drain, .waitIdle, .cmd .txreq, .waitIdle, .cmd (.readx 47), .waitIdle] ++ decodeFrame

/-- The inputs of a step in which the host does the action and the environment presents the rest of `env`. -/
def HostAction.over (env : Inputs) : HostAction → Inputs
  | .write idx v => { env with hSel := true, hWe := true, hWidx := idx, hWdata := v }
  | .read idx => { env with hSel := true, hWe := false, hWidx := idx, hWdata := 0 }
  | .waitIdle => { env with hSel := true, hWe := false, hWidx := 0x01, hWdata := 0 }

/-- The actions left after a step from `s` that did the first of them: `WAIT IDLE` stays while `BUSY` reads 1. -/
def HostAction.rest (s : State) (a : HostAction) (t : List HostAction) : List HostAction :=
  match a with
  | .waitIdle => if busy s then a :: t else t
  | .write _ _ | .read _ => t

/-- The word a step of the action reads, if it reads one that the script records (R106). -/
def HostAction.recorded (s : State) : HostAction → List Word
  | .read idx => [regRead s idx]
  | .write _ _ | .waitIdle => []

/-- Run a host script for at most `k` steps beside the environment that `s` presents, the host's own inputs being the
script's: the state it leaves and the words read, oldest first. -/
def runScript : Nat → List HostAction → List Word → State → Option (State × List Word)
  | _, [], rs, s => some (s, rs)
  | 0, _ :: _, _, _ => none
  | k + 1, a :: t, rs, s =>
    match stepWith (a.over s.input) s.advance with
    | .next s' => runScript k (a.rest s t) (rs ++ a.recorded s) s'
    | .fault _ => none
    | .refused _ => none

end Sys2Proof.Machine
end

