-- ==== Sys2Proof/Tests/Slice0.lean ====
section
/-! SUPPORT. The model's own tests. Expected values are the spec's: 30_encoding.md (the words, written out from the format of
R90 and the table of R92), 95_test_vectors.md (the section is named at each test). The second half shows, for each statement
with hypotheses, a concrete state that meets them; for a statement with several clauses, one for each clause, at the ends of
its range. -/

namespace Sys2Proof.Tests

open Sys2Proof.Machine Sys2Proof.Safety

/-! ### Helpers -/

/-- The reset state with `FSM` and `OP` set, in which the environment presents `i` at the coming step. -/
def inState (f : Fsm) (o : Operation) (i : Inputs := {}) : State := { State.reset with fsm := f, op := o, script := [i] }

/-- The host writes `w` to word `idx` in the coming step. -/
abbrev wr (idx : BitVec 8) (w : Word) : Inputs := hostWriteInputs idx w

/-- The next state, if there is one. -/
def after : Outcome → Option State
  | .next t => some t
  | .fault _ => none
  | .refused _ => none

theorem next_of_after {o : Outcome} (h : (after o).isSome = true) : ∃ t, o = .next t := by
  cases o with
  | next t => exact ⟨t, rfl⟩
  | fault f => cases h
  | refused r => cases h

/-- `STATUS`, `RESULT`, `ERRINFO`, `IP` as the host reads them. -/
def regs (s : State) : List Nat := [0x01, 0x02, 0x03, 0x06].map fun n => (regRead s (BitVec.ofNat 8 n)).toNat

/-- These registers after one step. -/
def stepRegs (s : State) : Option (List Nat) := (after (step s)).map regs

/-! ### Host scripts (R106, R107) -/

theorem test_loaduns_writes_each_cell_then_the_count :
    loadUns [0x3F, 0x80] = [.write 0x80 0x3F, .write 0x81 0x80, .write 0x08 2] := by decide

theorem test_script_reads_before_its_own_step :
    (runScript 3 [.write 0x05 0x7F, .read 0x05, .waitIdle] [] { State.reset with script := [{}, {}, {}] }).map (·.2) =
      some [0x7F] := by decide

/-! ### WellFormed -/

theorem test_readx_above_cap_is_ill_formed : (Instr.readx 65).wellFormed 64 = false := by decide
theorem test_readx_at_cap_is_well_formed : (Instr.readx 64).wellFormed 64 = true := by decide
theorem test_every_other_operation_is_well_formed :
    [Instr.txstart, .txreq, .drain, .unstuff, .decode 255, .sample, .run, .stop].all (·.wellFormed 64) = true := by decide

/-! ### Decoding: each word bit by bit, high zeros, `n`, low zeros, `op` -/

theorem test_decode_txstart : decode 64 0b0000000000000000_00000000_0000_0001 = .ok .txstart := by decide
theorem test_decode_txreq : decode 64 0b0000000000000000_00000000_0000_0010 = .ok .txreq := by decide
theorem test_decode_drain : decode 64 0b0000000000000000_00000000_0000_0011 = .ok .drain := by decide
theorem test_decode_readx : decode 64 0b0000000000000000_00101111_0000_0100 = .ok (.readx 47) := by decide
theorem test_decode_unstuff : decode 64 0b0000000000000000_00000000_0000_0101 = .ok .unstuff := by decide
theorem test_decode_decode : decode 64 0b0000000000000000_11111111_0000_0110 = .ok (.decode 255) := by decide
theorem test_decode_sample : decode 64 0b0000000000000000_00000000_0000_0111 = .ok .sample := by decide
theorem test_decode_run : decode 64 0b0000000000000000_00000000_0000_1000 = .ok .run := by decide
theorem test_decode_stop : decode 64 0b0000000000000000_00000000_0000_1001 = .ok .stop := by decide

/-- 95_test_vectors.md 2.4, the rejected words. -/
theorem test_decode_rejects_by_name :
    [0x00000000, 0x0000000A, 0x0000000F, 0x00000015, 0x00000105, 0x00000109, 0x00010001, 0x80000001, 0x00004104].map
      (fun w : Word => decode 64 w) =
    [.error .opcode, .error .opcode, .error .opcode, .error .zeroBits, .error .strayOperand, .error .strayOperand,
     .error .zeroBits, .error .zeroBits, .error .lengthAboveCap] := by decide

/-- The words of the host's numbering: bit 0 of the table is bit 0 of the word. -/
theorem test_table_word : decodeTableWord 32 0x2F04 = some (.readx 47) ∧ decodeTableWord 16 0x0506 = some (.decode 5) := by
  decide

/-! ### The codec (95_test_vectors.md 2.1 to 2.3; examples of R125, R127, R128, R136) -/

theorem test_unstuff_output_is_not_rescanned : unstuff [0x7D, 0x5D, 0x31] = [0x7D, 0x31] := by decide
theorem test_unstuff_lone_prefixes : unstuff [0x7D, 0x7D, 0x7D, 0x33] = [0x7D, 0x7D, 0x13] ∧ unstuff [0x7D] = [0x7D] := by
  decide
theorem test_stuff : stuff [0x7E, 0x7D, 0x11, 0x13, 0x42] = [0x7D, 0x5E, 0x7D, 0x5D, 0x7D, 0x31, 0x7D, 0x33, 0x42] := by decide
theorem test_round_ties_go_away_from_zero :
    round2Default 0x3E000000 = 0x3E051EB8 ∧ round2Default 0xBE000000 = 0xBE051EB8 := by decide
theorem test_round_half_even :
    round2HalfEven 0x3E000000 = 0x3DF5C28F ∧ round2HalfEven 0x3EC00000 = 0x3EC28F5C ∧ round2HalfEven 0x3F200000 = 0x3F1EB852 := by
  decide
/-- A given `ROUND2` may break a tie either way, and may not leave the nearest hundredth: R135. -/
theorem test_round_given :
    round2Given [(0x3E000000, 0x3DF5C28F)] 0x3E000000 = 0x3DF5C28F ∧
    round2Given [(0x3F9E0610, 0x3F800000)] 0x3F9E0610 = 0x3F9D70A4 := by decide
theorem test_round_below_the_tie : round2Default 0x3F80A3D7 = 0x3F800000 := by decide
theorem test_round_keeps_the_sign_of_zero : round2Default 0xBB83126F = 0x80000000 := by decide
theorem test_round_carries_into_the_exponent : round2Default 0x3FFF5C29 = 0x40000000 := by decide
theorem test_round_passes_nan : round2Default 0x7FA00001 = 0x7FA00001 := by decide

/-! ### The buffers' memory -/

theorem test_write_of_zero_removes_the_cell : (Memory.write [(0x40, 5)] 0x40 0) = [] := by decide
theorem test_write_keeps_the_order : Memory.write [(0x40, 5), (0x42, 7)] 0x41 6 = [(0x40, 5), (0x41, 6), (0x42, 7)] := by
  decide

/-! ### One operation, one step (95_test_vectors.md 2.4, 2.9): `STATUS`, `RESULT`, `ERRINFO`, `IP` -/

theorem test_exec_txstart : stepRegs (State.reset.present (wr 0 0x00000001)) = some [0x111, 0, 0, 0] := by decide
theorem test_exec_txreq : stepRegs (State.reset.present (wr 0 0x00000002)) = some [0x122, 0, 0, 0] := by decide
theorem test_exec_drain : stepRegs (State.reset.present (wr 0 0x00000003)) = some [0x133, 0, 0, 0] := by decide
theorem test_exec_readx : stepRegs (State.reset.present (wr 0 0x00004004)) = some [0x40000144, 0, 0, 0] := by decide
theorem test_exec_unstuff : stepRegs (State.reset.present (wr 0 0x00000005)) = some [0x155, 0, 0, 0] := by decide
theorem test_exec_decode : stepRegs (State.reset.present (wr 0 0x0000FF06)) = some [0xFF000165, 0, 0, 0] := by decide
theorem test_exec_sample : stepRegs (State.reset.present (wr 0 0x00000007)) = some [0x173, 0, 0, 0] := by decide
theorem test_exec_run : stepRegs (State.reset.present (wr 0 0x00000008)) = some [0x181, 0, 0, 0] := by decide
theorem test_exec_stop_discards_the_step :
    stepRegs { inState .txs .run { wr 0 9 with txErr := true } with txi := 2 } = some [0x0002100B, 0, 0, 0x20] := by decide
theorem test_exec_stop_needs_run : stepRegs (State.reset.present (wr 0 0x00000009)) = some [0, 0, 0, 0x40] := by decide
theorem test_command_in_the_completing_step_is_rejected :
    stepRegs (inState .dec .unstuff (wr 0 5)) = some [0, 0x00000001, 0, 0x41] := by decide
theorem test_fetch_word_runs : stepRegs (State.reset.withFetchWord 32 0x0506) = some [0x05000165, 0, 0, 0] := by decide

/-! ### The states (95_test_vectors.md 2.5 to 2.8) -/

theorem test_txs_last_byte_of_run :
    stepRegs { inState .txs .run { txReady := true } with txi := 7 } = some [0x00080186, 0, 0, 0] := by decide
theorem test_txs_error_is_fatal : stepRegs (inState .txs .txstart { txErr := true }) = some [0x300B, 0x1C, 3, 0x29] := by decide
theorem test_txr_error_before_ready :
    stepRegs { inState .txr .txreq { txErr := true, txReady := true } with txi := 2 } =
      some [0x00020000, 0x224, 0x204, 0x09] := by decide
theorem test_rdx_full_beats_the_deadline :
    stepRegs { inState .rdx .readx { rxSt := .byte, rxData := 0x55, tick := true } with arg := 3, rawcnt := 3 } =
      some [0x03000000, 0x301, 0, 0x01] := by decide
theorem test_rdx_deadline_beats_the_byte :
    stepRegs { inState .rdx .readx { rxSt := .byte, rxData := 0x55 } with arg := 3, rawcnt := 2 } =
      some [0x03000000, 0x22C, 0x205, 0x09] := by decide
theorem test_rdx_stores_and_counts :
    (after (step { inState .rdx .readx { rxSt := .byte, rxData := 0x55, tick := true } with
      arg := 3, rawcnt := 2, dlcnt := 1 })).map (fun t => (t.raw 2, t.rawcnt, t.dlcnt, t.fsm)) =
      some (0x55, 3, 0, .rdx) := by decide
theorem test_rdx_end_of_stream_of_run :
    (after (step { inState .rdx .run { rxSt := .eos } with rawcnt := 1, dlcnt := 5, tken := true, ptmr := 0x64 })).map
      (fun t => (t.tmr, regs t)) = some (1000, [0x589, 0x103, 0, 0x05]) := by decide
theorem test_drain_ends_silently : stepRegs (inState .drn .drain { rxSt := .err }) = some [0, 1, 0, 1] := by decide
theorem test_decode_too_short :
    stepRegs { inState .dec .decode with arg := 5, unscnt := 35 } = some [0x05000000, 0x1E3C, 0x1E07, 0x09] := by decide
theorem test_settle_starts_the_ticker :
    (after (step (inState .settle .run { tick := true }))).map (fun t => (t.tken, t.ptmr, t.ptick, regs t)) =
      some (true, 5000, false, [0x587, 0, 0, 0]) := by decide
theorem test_waitp_consumes_and_fires_in_one_step :
    (after (step { inState .waitp .run { tick := true } with tken := true, ptick := true, ptmr := 1 })).map
      (fun t => (t.ptmr, regs t)) = some (5000, [0xD83, 0, 0, 0]) := by decide
theorem test_fwd_failure_keeps_the_result :
    stepRegs { inState .fwd .run { snkOk := true, snkFail := true } with
      result := ⟨.reading, .none, 40⟩, rdvalid := true } = some [0x38A, 0x2802, 0xA, 0x08] := by decide
theorem test_cool_counts : (after (step { inState .cool .run { tick := true } with tmr := 1 })).map (fun t => (t.tmr, t.fsm)) =
    some (0, .cool) := by decide
theorem test_live_set_beats_the_clear :
    stepRegs { inState .live .run (wr 6 0x13) with ip := 0x13 } = some [0x187, 0, 0, 0x10] := by decide

/-! ### Host writes (95_test_vectors.md 2.10) -/

theorem test_count_is_clamped : (after (step (State.reset.present (wr 7 0xC8)))).map (·.rawcnt) = some 0x40 := by decide
theorem test_clear_pending :
    (after (step { State.reset with ip := 0x1B, script := [wr 6 9] })).map (·.ip) = some 0x12 := by decide

/-! ### Witnesses: reset, the whole machine -/

theorem test_witness_reset : (inState .rdx .run { rst := true }).input.rst = true := by decide

/-- `WAITP` with a period tick pending, the last reading still in place. -/
def waiting : State :=
  { inState .waitp .run { tick := true } with
    tken := true, ptmr := 1, ptick := true, result := ⟨.error, .timeout, 3⟩, errinfo := ⟨.timeout, 3⟩
    ev := ⟨true, .timeout, 3⟩, ip := 0x09, mem := [(0x40, 7), (0xBF, 9)], rawcnt := 3 }

theorem test_waiting_meets_the_invariants : Inv waiting :=
  ⟨⟨by decide, by decide, by decide, by decide⟩,
    ⟨by decide, by decide, by decide, by decide, by decide, by decide, by decide, by decide, by decide, by decide, by decide⟩,
    ⟨by decide, by decide, by decide, by decide, by decide, fun h => by cases h⟩⟩

theorem test_witness_EveryStepKeepsTheInvariants : ∃ s t, Inv s ∧ step s = .next t ∧ t.fsm = .drn :=
  ⟨waiting, _, test_waiting_meets_the_invariants, rfl, rfl⟩

theorem test_witness_StepIsTotal : ∃ s, Inv s := ⟨waiting, test_waiting_meets_the_invariants⟩

theorem test_witness_TickerStepsByItself :
    (∃ t, step waiting = .next t) ∧ waiting.input.rst = false ∧ ¬ (waiting.op = .run ∧ HostWritesWord waiting 0 9) ∧
      ¬ (waiting.fsm = .settle ∧ waiting.tmr = 0) := by
  exact ⟨⟨_, rfl⟩, by decide, by decide, by decide⟩

/-- A busy step that keeps its operation, one that ends it in `IDLE`, and one that ends it in `EXITED`. -/
theorem test_witness_OneOperationAtATime :
    (busy waiting = true ∧ waiting.input.rst = false ∧ (after (step waiting)).map (·.op) = some .run) ∧
    (busy (inState .drn .drain) = true ∧ (after (step (inState .drn .drain))).map (fun t => (t.op, t.fsm)) =
      some (.none, .idle)) ∧
    (busy (inState .txs .run { txErr := true }) = true ∧
      (after (step (inState .txs .run { txErr := true }))).map (fun t => (t.op, t.fsm)) = some (.none, .exited)) := by decide

/-- `EXITED` under each kind of step: a command, an idle-gated write, writes to `IE` and `IP`, no write, and `rst`. -/
theorem test_witness_ExitedIsTerminal :
    (∀ i, ControlInv (inState .exited .none i)) ∧ HostWritesWord (inState .exited .none (wr 0 8)) 0x00 8 ∧
    HostWritesWord (inState .exited .none (wr 0xBF 8)) 0xBF 8 ∧ idleGated 64 0xBF = true ∧ idleGated 64 0x04 = true ∧
    HostWritesWord (inState .exited .none (wr 5 0xFF)) 0x05 0xFF ∧ HostWritesWord (inState .exited .none (wr 6 1)) 0x06 1 ∧
    HostQuiet (inState .exited .none) ∧ (inState .exited .none { rst := true }).input.rst = true := by
  refine ⟨fun i => ⟨?_, ?_, ?_, ?_, ?_, ?_, ?_, ?_, ?_, ?_, ?_⟩, ?_⟩ <;> first | decide | simp [inState, State.reset,
    State.resetWith, legalPair]

theorem test_witness_ExitCodes :
    ((inState .rdx .run (wr 0 9)).op = .run ∧ HostWritesWord (inState .rdx .run (wr 0 9)) 0x00 0x00000009 ∧
      (after (step (inState .rdx .run (wr 0 9)))).map (fun t => (t.fsm, t.exitcode)) = some (.exited, false)) ∧
    ((after (step (inState .txs .txstart { txErr := true }))).map (fun t => (t.fsm, t.exitcode)) = some (.exited, true)) := by
  decide

theorem test_witness_start_failure_meets_the_invariants : ControlInv (inState .txs .txstart { txErr := true }) :=
  ⟨by decide, by decide, by decide, by decide, by decide, by decide, by decide, by decide, by decide, by decide, by decide⟩

/-- A payload of 40 bytes whose first field is 1.0. -/
def decoding (i : Inputs := {}) : State :=
  { inState .dec .decode i with mem := [(0x80, 0x3F), (0x81, 0x80)], unscnt := 40 }

theorem test_witness_ReadingChangesOnlyByASuccessfulDecode :
    ∃ t, step decoding = .next t ∧ decoding.input.rst = false ∧ t.rd ≠ decoding.rd :=
  ⟨_, rfl, by decide, by decide⟩

/-- A step that reports an error, and one that does not. -/
theorem test_witness_EventsMirrorErrinfo :
    (after (step (inState .txr .sample { txErr := true }))).map (·.ev.valid) = some true ∧
    (after (step waiting)).map (·.ev.valid) = some false := by decide

theorem test_witness_DeadlineChangesOnlyByTheHostInIdle :
    ∃ t, step (inState .idle .none (wr 4 5)) = .next t ∧ t.deadline ≠ (inState .idle .none (wr 4 5)).deadline :=
  ⟨_, rfl, by decide⟩

/-! ### Witnesses: the command word and the commands -/

theorem test_witness_StepRunsTheDecodedCommand :
    HostWritesWord (inState .idle .none (wr 0 0x4004)) 0x00 0x4004 ∧
    decode (inState .idle .none (wr 0 0x4004)).cfg.rawCap 0x4004 = .ok (.readx 64) := by decide

/-- A reserved word of each kind, written while an operation is in progress. -/
theorem test_witness_ReservedWordsAreRejected :
    ([0x00000000, 0x0000000F, 0x00000010, 0x00010001, 0x00000105, 0x00004104] : List Word).all (fun w =>
      decide (HostWritesWord (inState .drn .drain (wr 0 w)) 0x00 w) && (decode 64 w).toOption.isNone &&
        (after (quietStep (inState .drn .drain (wr 0 w)))).isSome) = true := by decide

/-- `IDLE` with the ticker off; the longest read. Each operation then completes its command step. -/
theorem test_witness_AcceptSequences :
    State.reset.fsm = .idle ∧ State.reset.tken = false ∧ (64 : Byte).toNat ≤ State.reset.cfg.rawCap ∧
    ([.txstart, .txreq, .drain, .readx 0, .readx 64, .unstuff, .decode 0, .decode 255, .sample, .run].map fun i =>
      (after (exec i (inState .idle .none))).map fun t => (t.fsm, t.op)) =
      [some (.txs, .txstart), some (.txr, .txreq), some (.drn, .drain), some (.rdx, .readx), some (.rdx, .readx),
        some (.dec, .unstuff), some (.dec, .decode), some (.dec, .decode), some (.drn, .sample), some (.txs, .run)] := by
  decide

theorem test_witness_StopDiscardsTheStepAndExits :
    (inState .fwd .run).op = .run ∧ (inState .rdx .sample).op ≠ .run ∧ (after (quietStep (inState .rdx .sample))).isSome := by
  decide

/-- `IDLE`, busy and `EXITED` states for the four cases. -/
theorem test_witness_CommandsAreAcceptedOrRejected :
    (Instr.readx 64).wellFormed (inState .idle .none).cfg.rawCap = true ∧ (inState .idle .none).fsm = .idle ∧
    (inState .exited .none).fsm ≠ .idle ∧ (after (quietStep (inState .exited .none))).isSome ∧
    (after (quietStep (inState .live .run))).isSome ∧ (inState .live .run).op = .run ∧ (inState .idle .none).op ≠ .run := by
  decide

/-! ### Witnesses: the host register space -/

theorem test_witness_HostReads :
    (let i : Inputs := { hSel := true, hWidx := 0x04 }; i.hSel = true ∧ i.hWe = false) ∧ (wr 4 5).hWe = true ∧
    ({} : Inputs).hSel = false ∧ 63 < State.reset.cfg.rawCap ∧
    ([0x09, 0x0D, 0x0F, 0x1A, 0x3F, 0xC0, 0xFF] : List (BitVec 8)).all (fun n => regRead State.reset n = 0) = true := by decide

/-- Every idle-gated word at the ends of its range, while a drain is in progress. -/
theorem test_witness_IdleGatedWrites :
    ([0x04, 0x07, 0x08, 0x40, 0x7F, 0x80, 0xBF] : List (BitVec 8)).all (fun n =>
      decide (HostWritesWord (inState .drn .drain (wr n 1)) n 1) && idleGated 64 n &&
        (after (quietStep (inState .drn .drain (wr n 1)))).isSome) = true := by decide

theorem test_witness_IdleWrites :
    HostQuiet (inState .idle .none) ∧ (inState .idle .none).fsm = .idle ∧ (inState .idle .none).tken = false ∧
    (inState .idle .none (wr 4 0xFFFFFFFF)).fsm = .idle ∧ (inState .idle .none (wr 4 0xFFFFFFFF)).tken = false ∧
    HostWritesWord (inState .idle .none (wr 4 0xFFFFFFFF)) 0x04 0xFFFFFFFF ∧
    HostWritesWord (inState .idle .none (wr 7 65)) 0x07 65 ∧ HostWritesWord (inState .idle .none (wr 8 64)) 0x08 64 := by decide

theorem test_witness_BufferCellWrites :
    ([0x40, 0x7F, 0x80, 0xBF] : List (BitVec 8)).all (fun n =>
      decide ((inState .idle .none (wr n 0x1AB)).mem.wf) && decide (HostWritesWord (inState .idle .none (wr n 0x1AB)) n 0x1AB) &&
        (after (step (inState .idle .none (wr n 0x1AB)))).map (fun t => regRead t n) == some 0xAB) = true := by decide

theorem test_witness_InterruptWrites :
    HostWritesWord (inState .live .run (wr 5 0x7F)) 0x05 0x7F ∧ HostWritesWord (inState .live .run (wr 6 0x7F)) 0x06 0x7F ∧
    (after (quietStep (inState .live .run (wr 5 0x7F)))).isSome ∧
    (after (quietStep { inState .live .run (wr 6 0x7F) with ip := 0 })).isSome := by decide

/-- `RAW_CAP = 47`: the cells above it are unmapped. -/
def smallCap : Config.Params := { Config.defaults with rawCap := 47, rawCap_ge := by decide, rawCap_le := by decide }

theorem test_witness_OtherWrites :
    ([0x01, 0x03, 0x09, 0x3F, 0x6F, 0x7F, 0xAF, 0xFF] : List (BitVec 8)).all (fun n =>
      decide (HostWritesWord { inState .idle .none (wr n 1) with cfg := smallCap } n 1) && !idleGated 47 n &&
        decide (n ≠ 0x00 ∧ n ≠ 0x05 ∧ n ≠ 0x06)) = true := by decide

/-! ### Witnesses: the steps of the states -/

/-- First and last byte of each frame, accepted, waiting and failing, under each operation. -/
theorem test_witness_TransmitStep :
    [Operation.txstart, .run].all (fun o => [0, 7].all fun n =>
      [({} : Inputs), { txReady := true }, { txErr := true }].all fun i =>
        decide (HostQuiet { inState .txs o i with txi := n } ∧ n.toNat < 8) &&
          (after (step { inState .txs o i with txi := n })).isSome) = true ∧
    [Operation.txreq, .sample, .run].all (fun o => [0, 5].all fun n =>
      [({} : Inputs), { txReady := true }, { txErr := true }].all fun i =>
        decide (HostQuiet { inState .txr o i with txi := n } ∧ n.toNat < 6) &&
          (after (step { inState .txr o i with txi := n })).isSome) = true := by decide

theorem test_witness_DrainStep :
    [Operation.drain, .sample, .run].all (fun o => [RxSt.none, .byte, .eos, .err].all fun c =>
      decide (HostQuiet (inState .drn o { rxSt := c })) && (after (step (inState .drn o { rxSt := c }))).isSome) = true := by
  decide

/-- The six cases: a full buffer (of length 0, of 64, of a frame), a passed deadline, and each RX condition. -/
theorem test_witness_ReadStep :
    (let s := inState .rdx .readx; HostQuiet s ∧ s.rawcnt = s.arg) ∧
    (let s : State := { inState .rdx .readx with arg := 64, rawcnt := 64 }; s.rawcnt = s.arg) ∧
    (let s : State := { inState .rdx .sample with rawcnt := 47 }; HostQuiet s ∧ s.rawcnt = 47) ∧
    (let s : State := { inState .rdx .run with rawcnt := 46 }; s.rawcnt ≠ 47 ∧ s.dlcnt = 0) ∧
    ([RxSt.none, .byte, .eos, .err].all fun c =>
      let s : State := { inState .rdx .readx { rxSt := c, tick := true } with arg := 64, rawcnt := 63, dlcnt := 1 }
      decide (s.rawcnt ≠ s.arg ∧ s.dlcnt ≠ 0 ∧ s.rawcnt.toNat < s.cfg.rawCap ∧ s.mem.wf) && (after (step s)).isSome) = true ∧
    ([Operation.sample, .run].all fun o =>
      (after (step { inState .rdx o { rxSt := .eos } with dlcnt := 1 })).isSome) = true := by decide

theorem test_witness_UnstuffIsASinglePass :
    (0x7D : Byte) ∉ ([0x5E, 0x7E] : List Byte) ∧ (0x7D : Byte) ≠ 0x5E ∧ (0x7D : Byte) ≠ 0x5D ∧ (0x7D : Byte) ≠ 0x31 ∧
    (0x7D : Byte) ≠ 0x33 := by decide

/-- Lengths 39, 40 and 42. -/
theorem test_witness_DecodeTakesTenFieldsOrNone :
    (List.replicate 39 (0 : Byte)).length < 40 ∧ 40 ≤ (List.replicate 40 (0 : Byte)).length ∧
    40 ≤ (List.replicate 42 (0 : Byte)).length := by decide

/-- Zero, the largest finite pattern, the first pattern that is not rounded, infinity and a NaN. -/
theorem test_witness_Rounding :
    (0x00000000 : Word).extractLsb' 23 8 ≠ 255 ∧ (0xFF7FFFFF : Word).extractLsb' 23 8 ≠ 255 ∧
    149 ≤ ((0x4A800000 : Word).extractLsb' 23 8).toNat ∧ (0x7F800000 : Word).extractLsb' 23 8 = 255 ∧
    (0x7FA00001 : Word).extractLsb' 23 8 = 255 := by decide

theorem test_witness_UnstuffStep :
    let s : State := { inState .dec .unstuff with mem := [(0x40, 1), (0x41, 0x7D), (0x42, 0x5E), (0x43, 2)], rawcnt := 4 }
    HostQuiet s ∧ s.rawcnt.toNat ≤ s.cfg.rawCap ∧ s.mem.wf ∧
      (after (step s)).map (fun t => (t.payload 0, regs t)) = some ([1, 0x7E, 2], [0, 0x301, 0, 1]) := by decide

/-- 39 payload bytes fail, 40 decode; an offset past the end leaves none. -/
theorem test_witness_DecodeStep :
    HostQuiet decoding ∧ decoding.unscnt.toNat ≤ decoding.cfg.rawCap ∧ (decoding.payload 0).length = 40 ∧
    (decodePayload decoding.cfg (decoding.payload 0)).isSome = true ∧
    ({ decoding with unscnt := 39 }.payload 0).length = 39 ∧ ({ decoding with arg := 255 }.payload 255).length = 0 := by decide

/-- A frame of 47 zero bytes decodes; one of 47 with three pairs does not. -/
theorem test_witness_CycleDecodeStep :
    [Operation.sample, .run].all (fun o =>
      let s : State := { inState .dec o with rawcnt := 47 }
      decide (HostQuiet s ∧ s.rawcnt.toNat ≤ s.cfg.rawCap ∧ s.mem.wf ∧ 40 ≤ ((unstuff s.rawFrame).drop 5).length)) = true ∧
    (let s : State := { inState .dec .sample with rawcnt := 47, mem := [(0x45, 0x7D), (0x46, 0x5E), (0x47, 0x7D),
       (0x48, 0x5E), (0x49, 0x7D), (0x4A, 0x5E)] }
     ((unstuff s.rawFrame).drop 5).length = 39) := by decide

/-- `IDLE` with a frame of one pair in `RAW` and the two inputs of the statement. -/
def loaded (l : List Inputs) : State :=
  { State.resetWith Config.defaults l 0 with mem := [(0x40, 0x7D), (0x41, 0x5E)], rawcnt := 2 }

theorem test_loaded_meets_the_invariants (l : List Inputs) : Inv (loaded l) :=
  ⟨⟨by simp only [loaded]; decide, by simp [loaded, State.resetWith, isRawIndex, rawBase, Config.defaults],
      by simp [loaded, State.resetWith, Config.defaults], by simp [loaded, State.resetWith]⟩,
    by constructor <;> simp [loaded, State.resetWith, legalPair], by constructor <;> simp [loaded, State.resetWith]⟩

theorem test_witness_UnstuffTakesTwoSteps (rest : List Inputs) :
    ∃ s, Inv s ∧ s.fsm = .idle ∧ s.script = hostWriteInputs 0x00 0x00000005 :: {} :: rest :=
  ⟨loaded (hostWriteInputs 0x00 0x00000005 :: {} :: rest), test_loaded_meets_the_invariants _, rfl, rfl⟩

/-- A state of `UNSTUFF` and the three steps the statement compares. -/
theorem test_witness_CycleDecodeEqualsUnstuffThenDecode :
    let s : State := { inState .dec .unstuff with rawcnt := 47 }
    Inv s ∧ ∃ t v c, stepWith {} s = .next t ∧ stepWith {} { t with fsm := .dec, op := .decode, arg := 5 } = .next v ∧
      stepWith {} { s with op := .sample } = .next c := by
  refine ⟨⟨⟨by decide, by decide, by decide, by decide⟩, ?_, ?_⟩, _, _, _, rfl, rfl, rfl⟩
  · exact ⟨by decide, by decide, by decide, by decide, by decide, by decide, by decide, by decide, by decide, by decide,
      by decide⟩
  · exact ⟨by decide, by decide, by decide, by decide, by decide, fun h => by cases h⟩

theorem test_witness_LoopSteps :
    HostQuiet (inState .settle .run) ∧ (inState .settle .run).tmr = 0 ∧
    HostQuiet { inState .settle .run { tick := true } with tmr := 1 } ∧
    HostQuiet waiting ∧ waiting.ptick = true ∧ (inState .waitp .run).ptick = false ∧
    HostQuiet (inState .fwd .run { snkOk := true, snkFail := true }) ∧ HostQuiet (inState .fwd .run { snkOk := true }) ∧
    HostQuiet (inState .fwd .run) ∧ (inState .cool .run).tmr = 0 ∧
    HostQuiet { inState .cool .run { tick := true } with tmr := 1 } ∧ HostQuiet (inState .live .run) := by decide

/-- The first and the last byte of each frame, and a state that presents none; two input vectors that differ elsewhere. -/
theorem test_witness_OutputsAreFunctionsOfTheState :
    ([0, 7].all fun n => decide ({ inState .txs .run with txi := n }.txi.toNat = n)) = true ∧
    ([0, 5].all fun n => decide ({ inState .txr .run with txi := n }.txi.toNat = n)) = true ∧
    (inState .idle .none).fsm ≠ .txs ∧ (inState .idle .none).fsm ≠ .txr ∧
    (let i : Inputs := { tick := true }; i.rxSt = ({} : Inputs).rxSt ∧ i.hSel = ({} : Inputs).hSel ∧
      i.hWe = ({} : Inputs).hWe ∧ i.hWidx = ({} : Inputs).hWidx) := by decide

/-- A tie under each of the two tie rules. -/
theorem test_witness_EveryRoundingIsToANearestHundredth :
    (0x3E000000 : Word).extractLsb' 23 8 ≠ 255 ∧ Config.defaults.rounding = .halfAway ∧
    ({ Config.defaults with rounding := .halfEven } : Config.Params).rounding = .halfEven ∧
    hundredths 0x3E000000 = 13 ∧ hundredthsDown 0x3E000000 = 12 := by decide

/-! ### Witnesses: whole runs -/

/-- A run given by its states up to `n`, and constant from `n` on. -/
theorem follows_of_list {I : Nat → Inputs} {S : Nat → State} (n : Nat)
    (h : ∀ k, k < n → stepWith (I k) (S k) = .next (S (k + 1)))
    (hend : ∀ k, n ≤ k → stepWith (I k) (S k) = .next (S (k + 1))) : Follows I S := fun k =>
  if hk : k < n then h k hk else hend k (by omega)

/-- `TXSTART` with an adapter that accepts a byte at every step: eight bytes, then `IDLE`. -/
def sending (k : Nat) : State :=
  if k < 8 then { State.reset with fsm := .txs, op := .txstart, txi := BitVec.ofNat 4 k }
  else { State.reset with txi := 8, result := ⟨.ok, .none, 8⟩, ip := 0x01 }

theorem test_witness_OneShotOperationsEnd :
    ∃ I : Nat → Inputs, Follows I sending ∧ Inv (sending 0) ∧ FairTick I ∧ FairTx I sending ∧ FairRxGap I ∧ NoRst I ∧
      (sending 0).op ≠ .run := by
  refine ⟨fun _ => { tick := true, txReady := true }, follows_of_list 8 (fun k hk => by interval_cases k <;> rfl) fun k hk => ?_,
    ⟨⟨by decide, by decide, by decide, by decide⟩, ?_, ?_⟩, fun k => ⟨k, le_refl k, rfl⟩,
    fun k _ => ⟨k, le_refl k, .inl rfl⟩, fun k => ⟨k, le_refl k, nofun⟩, fun _ => rfl, by decide⟩
  · rw [sending, if_neg (by omega), sending, if_neg (by omega)]; rfl
  · exact ⟨by decide, by decide, by decide, by decide, by decide, by decide, by decide, by decide, by decide, by decide,
      by decide⟩
  · exact ⟨by decide, by decide, by decide, by decide, by decide, fun h => by cases h⟩

/-- A loop of period 1 whose request fails at its first byte: `WAITP`, `DRN`, `TXR`, `LIVE`, over and over. -/
def failing (k : Nat) : State :=
  let base : State :=
    { State.reset with
      cfg := { Config.defaults with tPeriod := 1, tPeriod_pos := by decide }, op := .run, tken := true, ptmr := 1
      ptick := true, ip := 0x19, errinfo := ⟨.requestFailed, 0⟩, ev := ⟨false, .requestFailed, 0⟩ }
  match k % 4 with
  | 0 => { base with fsm := .waitp, result := ⟨.error, .requestFailed, 0⟩ }
  | 1 => { base with fsm := .drn }
  | 2 => { base with fsm := .txr }
  | _ => { base with fsm := .live, result := ⟨.error, .requestFailed, 0⟩, ev := ⟨true, .requestFailed, 0⟩ }

theorem test_witness_EveryLoopTurnReachesLive :
    ∃ I : Nat → Inputs, Follows I failing ∧ Inv (failing 0) ∧ FairTick I ∧ FairTx I failing ∧ FairRxGap I ∧
      FairSink I failing ∧ NoRst I ∧ NoStop I ∧ (failing 0).op = .run ∧ (failing 0).fsm ≠ .txs := by
  have turn : ∀ r, r < 4 →
      stepWith { tick := true, txErr := true, snkOk := true } (failing r) = .next (failing (r + 1)) := fun r hr => by
    interval_cases r <;> rfl
  have mod : ∀ k, failing (k % 4) = failing k := fun k => by simp [failing]
  refine ⟨fun _ => { tick := true, txErr := true, snkOk := true }, fun k => ?_,
    ⟨⟨by decide, by decide, by decide, by decide⟩, ?_, ?_⟩,
    fun k => ⟨k, le_refl k, rfl⟩, fun k _ => ⟨k, le_refl k, .inr rfl⟩, fun k => ⟨k, le_refl k, nofun⟩,
    fun k _ => ⟨k, le_refl k, .inl rfl⟩, fun _ => rfl, fun _ => nofun, by decide, by decide⟩
  · have h := turn (k % 4) (Nat.mod_lt k (by omega))
    rw [mod, ← mod (k % 4 + 1), show (k % 4 + 1) % 4 = (k + 1) % 4 by omega, mod] at h
    exact h
  · exact ⟨by decide, by decide, by decide, by decide, by decide, by decide, by decide, by decide, by decide, by decide,
      by decide⟩
  · exact ⟨by decide, by decide, by decide, by decide, by decide, fun h => by cases h⟩

/-- `SAMPLE`, and then an adapter that fails at every byte. -/
def sampling : Nat → Inputs
  | 0 => wr 0 7
  | _ + 1 => { txErr := true }

/-- A sample cycle whose request fails, begun from two different contents of `RAW`. -/
def cycle (second : Bool) (k : Nat) : State :=
  let base : State :=
    { State.reset with mem := if second then [(0x7F, 1)] else [(0x40, 0x7D), (0x41, 0x5E)] }
  let failed : State :=
    { base with
      result := ⟨.error, .requestFailed, 0⟩, errinfo := ⟨.requestFailed, 0⟩, ev := ⟨false, .requestFailed, 0⟩, ip := 0x09 }
  match k with
  | 0 => { base with rawcnt := if second then 64 else 2 }
  | 1 => { base with fsm := .drn, op := .sample }
  | 2 => { base with fsm := .txr, op := .sample }
  | 3 => { failed with ev := ⟨true, .requestFailed, 0⟩ }
  | _ + 4 => failed

theorem test_witness_SampleCycleIsSelfContained :
    ∃ (I : Nat → Inputs) (S T : Nat → State), Follows I S ∧ Follows I T ∧ Inv (S 0) ∧ Inv (T 0) ∧ NoRst I ∧
      NoHostFrom 1 I ∧ (S 0).fsm = .idle ∧ (T 0).fsm = .idle ∧ (S 0).cfg = (T 0).cfg ∧ (S 0).deadline = (T 0).deadline ∧
      hostCommand (I 0) = some (encode .sample) := by
  have run : ∀ b, Follows sampling (cycle b) := fun b k => by
    have last : ∀ b, stepWith { txErr := true } (cycle b 4) = .next (cycle b 4) := fun b => by cases b <;> rfl
    match k with
    | 0 => cases b <;> rfl
    | 1 => cases b <;> rfl
    | 2 => cases b <;> rfl
    | 3 => cases b <;> rfl
    | k + 4 => exact last b
  refine ⟨_, cycle false, cycle true, run _, run _, ?_, ?_, fun k => ?_, fun k hk => ?_,
    rfl, rfl, rfl, rfl, by decide⟩
  · exact ⟨⟨by decide, by decide, by decide, by decide⟩, ⟨by decide, by decide, by decide, by decide, by decide, by decide,
      by decide, by decide, by decide, by decide, by decide⟩, ⟨by decide, by decide, by decide, by decide, by decide,
      fun h => by cases h⟩⟩
  · exact ⟨⟨by decide, by decide, by decide, by decide⟩, ⟨by decide, by decide, by decide, by decide, by decide, by decide,
      by decide, by decide, by decide, by decide, by decide⟩, ⟨by decide, by decide, by decide, by decide, by decide,
      fun h => by cases h⟩⟩
  · cases k <;> rfl
  · cases k with
    | zero => omega
    | succ k => rfl

end Sys2Proof.Tests
end

/-! The state family (10_state.md): what the step of the state machine can do, said once, and what every step keeps. -/

namespace Sys2Proof.Machine

open Sys2Proof.Safety

/-! ### What the step of the state machine can do -/

/-- What the step of the state machine from `s` can leave on top of `a`, by the shared operation or the elements it writes;
each case carries what it says about the state it happens in. -/
inductive FsmEffect (s : State) (i : Inputs) (a : Act) : Act → Prop where
  /-- nothing: `IDLE`, `EXITED`, and every state that waits -/
  | stay : FsmEffect s i a a
  /-- a byte of a command frame is accepted and another follows (R124) -/
  | byteSent (h : (s.fsm = .txs ∧ s.txi.toNat < 7) ∨ (s.fsm = .txr ∧ s.txi.toNat < 5)) :
      FsmEffect s i a { a with st := { a.st with txi := s.txi + 1 } }
  /-- the last byte of the frame of `TXSTART` or `TXREQ` is accepted (R124) -/
  | frameSent (c : Byte) (hop : s.op = .txstart ∨ s.op = .txreq) (hx : s.txi.toNat < 8) :
      FsmEffect s i a (complete s .ok .none c { a with st := { a.st with txi := s.txi + 1 } })
  /-- the last byte of the start command of `RUN` is accepted (R124) -/
  | startSent (hf : s.fsm = .txs) (hop : s.op = .run) (hx : s.txi.toNat < 8) :
      FsmEffect s i a { a with st := { a.st with txi := s.txi + 1, tmr := s.cfg.tSettle, fsm := .settle } }
  /-- the last byte of a cycle's request is accepted: the read starts (R124, R183) -/
  | requestSent (hf : s.fsm = .txr) (hop : s.op = .sample ∨ s.op = .run) (hx : s.txi.toNat < 8) :
      FsmEffect s i a { a with st := startRead s { a.st with txi := s.txi + 1 } }
  /-- the start command fails (R124, R238) -/
  | startFailed (hf : s.fsm = .txs) : FsmEffect s i a (fatal .sensorStartFailed (s.txi.setWidth 8) a)
  /-- an error of the request or of the read (R124, R162) -/
  | raised (e : ErrCode) (c : Byte) (hf : s.fsm = .txr ∨ s.fsm = .rdx)
      (he : e = .requestFailed ∨ e = .timeout ∨ e = .ioError) : FsmEffect s i a (raiseError s e c a)
  /-- a drain or a read ends without a report (R162, R168) -/
  | completed (k : Kind) (e : ErrCode) (c : Byte) (hf : s.fsm = .drn ∨ s.fsm = .rdx)
      (hk : ((k = .ok ∨ k = .nodata) ∧ e = .none) ∨ (k = .error ∧ e = .streamClosed)) :
      FsmEffect s i a (complete s k e c a)
  /-- a cycle goes on from the drain to its request (R168) -/
  | requestBegun (hf : s.fsm = .drn) (hop : s.op = .sample ∨ s.op = .run) :
      FsmEffect s i a { a with st := { a.st with txi := 0, fsm := .txr } }
  /-- a cycle has read its frame (R162) -/
  | frameRead (hf : s.fsm = .rdx) (hop : s.op = .sample ∨ s.op = .run)
      (hr : s.rawcnt = BitVec.ofNat 8 Config.frameLen) : FsmEffect s i a { a with st := { a.st with fsm := .dec } }
  /-- a received byte is stored (R162) -/
  | byteStored (hf : s.fsm = .rdx) (hn : s.rawcnt ≠ readLength s) (hcap : s.rawcnt.toNat < s.cfg.rawCap) :
      FsmEffect s i a { a with st := countDeadline s i { a.st with
        mem := a.st.mem.write (rawBase + s.rawcnt.toNat) i.rxData
        rawcnt := s.rawcnt + 1 } }
  /-- nothing is received (R162) -/
  | deadlineCounted (hf : s.fsm = .rdx) : FsmEffect s i a { a with st := countDeadline s i a.st }
  /-- the step of `UNSTUFF` (R130) -/
  | unstuffed (hf : s.fsm = .dec) (hop : s.op = .unstuff) (hr : s.rawcnt.toNat ≤ s.cfg.rawCap) :
      FsmEffect s i a (decUnstuff s a)
  /-- the step of `DECODE` (R139) -/
  | decoded (hf : s.fsm = .dec) (hop : s.op = .decode) : FsmEffect s i a (decDecode s a)
  /-- the decoding step of a cycle (R185) -/
  | cycleDecoded (hf : s.fsm = .dec) (hop : s.op = .sample ∨ s.op = .run) (hr : s.rawcnt.toNat ≤ s.cfg.rawCap) :
      FsmEffect s i a (decCycle s a)
  /-- the last step of `SETTLE` (R203) -/
  | tickerStarted (hf : s.fsm = .settle) (hop : s.op = .run) :
      FsmEffect s i a { a with st := { a.st with tken := true, ptmr := s.cfg.tPeriod, ptick := false, fsm := .waitp } }
  /-- a tick of `SETTLE` or `COOL` (R203, R209) -/
  | timerCounted (hf : s.fsm = .settle ∨ s.fsm = .cool) : FsmEffect s i a { a with st := { a.st with tmr := s.tmr - 1 } }
  /-- a period tick starts a sub-cycle (R205) -/
  | subCycleBegun (hf : s.fsm = .waitp) (hop : s.op = .run) :
      FsmEffect s i a { a with st := { a.st with
        result := ⟨.none, .none, 0⟩, rawcnt := 0, unscnt := 0, rdvalid := false, fsm := .drn } }
  /-- the sink fails (R208, R239) -/
  | forwardFailed (hf : s.fsm = .fwd) (hop : s.op = .run) :
      FsmEffect s i a { report .forwardFailed 0 a with st := { (report .forwardFailed 0 a).st with fsm := .live } }
  /-- the sink has taken the reading, or the cooldown is over (R208, R209) -/
  | turnEnded (hf : s.fsm = .fwd ∨ s.fsm = .cool) (hop : s.op = .run) :
      FsmEffect s i a { a with st := { a.st with fsm := .live } }
  /-- the liveness signal (R210) -/
  | liveSignalled (hf : s.fsm = .live) (hop : s.op = .run) : FsmEffect s i a (liveStep a)

theorem txsStep_effect {s : State} {i : Inputs} {a b : Act} (hf : s.fsm = .txs) (hop : s.op = .txstart ∨ s.op = .run)
    (h : txStep Config.startLen s i a = .ok b) : FsmEffect s i a b := by
  have hx : s.txi.toNat < Config.startLen := by
    by_contra hn; simp [txStep, not_lt.1 hn] at h
  rw [txStep_ok hx] at h
  obtain rfl := Except.ok.inj h
  have hx8 : s.txi.toNat < 8 := hx
  simp only [if_pos hf]
  split
  · exact .startFailed hf
  · split
    · split
      · rcases hop with hop | hop
        · simpa [txDone, hf, hop] using FsmEffect.frameSent 8 (.inl hop) hx8
        · simpa [txDone, hf, hop] using FsmEffect.startSent hf hop hx8
      · rename_i hn; exact .byteSent (.inl ⟨hf, by simp only [Config.startLen] at hn; omega⟩)
    · exact .stay

theorem txrStep_effect {s : State} {i : Inputs} {a b : Act} (hf : s.fsm = .txr)
    (hop : s.op = .txreq ∨ s.op = .sample ∨ s.op = .run) (h : txStep Config.reqLen s i a = .ok b) :
    FsmEffect s i a b := by
  have hx : s.txi.toNat < Config.reqLen := by
    by_contra hn; simp [txStep, not_lt.1 hn] at h
  rw [txStep_ok hx] at h
  obtain rfl := Except.ok.inj h
  have hx8 : s.txi.toNat < 8 := lt_of_lt_of_le hx (by decide)
  rw [if_neg (show ¬ s.fsm = .txs by simp [hf])]
  split
  · exact .raised _ _ (.inl hf) (.inl rfl)
  · split
    · split
      · rcases hop with hop | hop
        · simpa [txDone, hf, hop] using FsmEffect.frameSent 6 (.inr hop) hx8
        · have hne : s.op ≠ .txreq := by rcases hop with hop | hop <;> simp [hop]
          simpa [txDone, hf, hne] using FsmEffect.requestSent hf hop hx8
      · rename_i hn; exact .byteSent (.inr ⟨hf, by simp only [Config.reqLen] at hn hx; omega⟩)
    · exact .stay

theorem drnStep_effect {s : State} (hf : s.fsm = .drn) (hop : s.op = .drain ∨ s.op = .sample ∨ s.op = .run)
    (i : Inputs) (a : Act) : FsmEffect s i a (drnStep s i a) := by
  unfold drnStep
  split
  · exact .stay
  · split
    · exact .completed _ _ _ (.inl hf) (.inl ⟨.inl rfl, rfl⟩)
    · rename_i hn; exact .requestBegun hf (hop.resolve_left hn)

/-- `SHORT_FRAME` cannot happen: the length read in a cycle is `FRAME_LEN` (R184). -/
theorem rdxFull_effect {s : State} (hf : s.fsm = .rdx) (hop : s.op = .readx ∨ s.op = .sample ∨ s.op = .run)
    (hr : s.rawcnt = readLength s) (i : Inputs) (a : Act) : FsmEffect s i a (rdxFull s a) := by
  unfold rdxFull
  split
  · exact .completed _ _ _ (.inr hf) (.inl ⟨.inl rfl, rfl⟩)
  · rename_i hn
    have hlen : s.rawcnt = BitVec.ofNat 8 Config.frameLen := by rw [hr, readLength, if_neg hn]
    rw [if_neg (not_not.2 hlen)]
    exact .frameRead hf (hop.resolve_left hn) hlen

theorem rdxStep_effect {s : State} {i : Inputs} {a b : Act} (hf : s.fsm = .rdx)
    (hop : s.op = .readx ∨ s.op = .sample ∨ s.op = .run) (h : rdxStep s i a = .ok b) : FsmEffect s i a b := by
  unfold rdxStep at h
  split at h
  · rename_i hr; cases h; exact rdxFull_effect hf hop hr i a
  rename_i hn
  split at h
  · cases h; exact .raised _ _ (.inr hf) (.inr (.inl rfl))
  split at h
  · cases h; exact .raised _ _ (.inr hf) (.inr (.inr rfl))
  · cases h
    split
    · exact .completed _ _ _ (.inr hf) (.inr ⟨rfl, rfl⟩)
    · exact .completed _ _ _ (.inr hf) (.inl ⟨.inr rfl, rfl⟩)
  · split at h
    · rename_i hcap; cases h; exact .byteStored hf hn hcap
    · cases h
  · cases h; exact .deadlineCounted hf

theorem decStep_effect {s : State} {i : Inputs} {a b : Act} (hf : s.fsm = .dec)
    (hop : s.op = .unstuff ∨ s.op = .decode ∨ s.op = .sample ∨ s.op = .run) (h : decStep s a = .ok b) :
    FsmEffect s i a b := by
  unfold decStep at h
  split at h
  · rename_i hd
    split at h
    · cases h; exact .decoded hf hd
    · cases h
  · rename_i hd
    split at h
    · rename_i hr
      cases h
      split
      · rename_i hu; exact .unstuffed hf hu hr
      · rename_i hu; exact .cycleDecoded hf ((hop.resolve_left hu).resolve_left hd) hr
    · cases h

theorem settleStep_effect {s : State} (hf : s.fsm = .settle) (hop : s.op = .run) (i : Inputs) (a : Act) :
    FsmEffect s i a (settleStep s i a) := by
  unfold settleStep
  split
  · exact .tickerStarted hf hop
  · split
    · exact .timerCounted (.inl hf)
    · exact .stay

theorem waitpStep_effect {s : State} (hf : s.fsm = .waitp) (hop : s.op = .run) (i : Inputs) (a : Act) :
    FsmEffect s i a (waitpStep s a) := by
  unfold waitpStep
  split
  · exact .subCycleBegun hf hop
  · exact .stay

theorem fwdStep_effect {s : State} (hf : s.fsm = .fwd) (hop : s.op = .run) (i : Inputs) (a : Act) :
    FsmEffect s i a (fwdStep i a) := by
  unfold fwdStep
  split
  · exact .forwardFailed hf hop
  · split
    · exact .turnEnded (.inl hf) hop
    · exact .stay

theorem coolStep_effect {s : State} (hf : s.fsm = .cool) (hop : s.op = .run) (i : Inputs) (a : Act) :
    FsmEffect s i a (coolStep s i a) := by
  unfold coolStep
  split
  · exact .turnEnded (.inr hf) hop
  · split
    · exact .timerCounted (.inr hf)
    · exact .stay

/-- Every step of the state machine has one of the effects listed. -/
theorem fsmStep_effect {s : State} {i : Inputs} {a b : Act} (h : fsmStep s i a = .ok b) : FsmEffect s i a b := by
  unfold fsmStep at h
  split at h
  · rename_i hl
    split at h <;> rename_i hf <;> simp only [hf, legalPair, Bool.or_eq_true, decide_eq_true_eq, or_assoc] at hl
    · cases h; exact .stay
    · exact txsStep_effect hf hl h
    · exact txrStep_effect hf hl h
    · cases h; exact drnStep_effect hf hl i a
    · exact rdxStep_effect hf hl h
    · exact decStep_effect hf hl h
    · cases h; exact settleStep_effect hf hl i a
    · cases h; exact waitpStep_effect hf hl i a
    · cases h; exact fwdStep_effect hf hl i a
    · cases h; exact coolStep_effect hf hl i a
    · cases h; exact .liveSignalled hf hl
    · cases h; exact .stay
  · cases h

/-- In `IDLE` the step of the state machine writes nothing. -/
theorem fsmStep_idle {s : State} {i : Inputs} {a b : Act} (hf : s.fsm = .idle) (h : fsmStep s i a = .ok b) : b = a := by
  simpa [fsmStep, hf, legalPair, eq_comm] using h

end Sys2Proof.Machine

namespace Sys2Proof.Safety

open Sys2Proof.Machine

/-! ### The control invariant from its parts -/

/-- What the control invariant asks of `TXI`, `RAWCNT` and `ARG` in the state they index in (R52). -/
structure IndexInv (s : State) : Prop where
  txi_le : s.txi.toNat ≤ 8
  txs_txi : s.fsm = .txs → s.txi.toNat ≤ 7
  txr_txi : s.fsm = .txr → s.txi.toNat ≤ 5
  rdx_cycle : s.fsm = .rdx → s.op ≠ .readx → s.rawcnt.toNat ≤ Config.frameLen
  rdx_readx : s.fsm = .rdx → s.op = .readx → s.rawcnt.toNat ≤ s.arg.toNat ∧ s.arg.toNat ≤ s.cfg.rawCap
  dec_cycle : s.fsm = .dec → (s.op = .sample ∨ s.op = .run) → s.rawcnt.toNat = Config.frameLen

theorem ControlInv.index {s : State} (h : ControlInv s) : IndexInv s :=
  ⟨h.txi_le, h.txs_txi, h.txr_txi, h.rdx_cycle, h.rdx_readx, h.dec_cycle⟩

/-- Outside `TXS`, `TXR`, `RDX` and `DEC` nothing is indexed. -/
theorem IndexInv.unindexed {s : State} (hx : s.txi.toNat ≤ 8)
    (hf : s.fsm ≠ .txs ∧ s.fsm ≠ .txr ∧ s.fsm ≠ .rdx ∧ s.fsm ≠ .dec) : IndexInv s := by
  obtain ⟨h1, h2, h3, h4⟩ := hf
  exact ⟨hx, fun h => absurd h h1, fun h => absurd h h2, fun h => absurd h h3, fun h => absurd h h3,
    fun h => absurd h h4⟩

/-- Neither the start command nor the settle time is under way: under `RUN` this is when the ticker is on (R33). -/
def AfterSettle (s : State) : Prop := s.fsm ≠ .txs ∧ s.fsm ≠ .settle

/-- An operation is in progress in a state it can be in (R22, R23). -/
def Working (s : State) : Prop := s.op ≠ .none ∧ s.fsm ≠ .idle ∧ s.fsm ≠ .exited ∧ legalPair s.fsm s.op = true

/-- The control invariant when no operation is in progress: the ticker is off. -/
theorem ControlInv.ended {u : State} (hx : u.txi.toNat ≤ 8) (hf : u.fsm = .idle ∨ u.fsm = .exited) (ho : u.op = .none)
    (hk : u.tken = false) (hp : u.ptick = false) : ControlInv u := by
  have hi : IndexInv u := .unindexed hx (by rcases hf with hf | hf <;> simp [hf])
  exact ⟨hi.1, hi.2, hi.3, by rcases hf with hf | hf <;> simp [hf, legalPair], by simp [ho, hf], by simp [ho, hk],
    by simp [hp], by simp [hk], hi.4, hi.5, hi.6⟩

/-- The control invariant while an operation is in progress with the ticker off. -/
theorem ControlInv.tickerOff {u : State} (hi : IndexInv u) (hw : Working u) (hr : u.op = .run → ¬ AfterSettle u)
    (hk : u.tken = false) (hp : u.ptick = false) : ControlInv u := by
  obtain ⟨ho, hf, he, hl⟩ := hw
  exact ⟨hi.1, hi.2, hi.3, hl, by simp [ho, hf, he],
    ⟨by simp [hk], fun h => absurd h.2 (hr h.1)⟩, by simp [hp], by simp [hk], hi.4, hi.5, hi.6⟩

/-- The operation in progress goes on, with the ticker as it was: the control invariant goes over from `t` to `u` when the
indices of `u` are in range. -/
theorem ControlInv.goesOn {t u : State} (h : ControlInv t) (hcfg : u.cfg = t.cfg) (hop : u.op = t.op)
    (hk : u.tken = t.tken) (hp : u.ptick = t.ptick) (hm : u.ptmr = t.ptmr) (hi : IndexInv u) (hw : Working u)
    (hr : u.op = .run → (AfterSettle u ↔ AfterSettle t)) : ControlInv u := by
  obtain ⟨ho, hf, he, hl⟩ := hw
  refine ⟨hi.1, hi.2, hi.3, hl, by simp [ho, hf, he], ?_, ?_, ?_, hi.4, hi.5, hi.6⟩
  · rw [hk, h.tken_iff, ← hop]
    exact and_congr_right fun h => (hr h).symm
  · rw [hk, hp]; exact h.ptick_tken
  · rw [hk, hm, hcfg]; exact h.ptmr_range

/-- Outside `RUN`, and under `RUN` before the end of `SETTLE`, the ticker is off. -/
theorem ControlInv.ticker_off {s : State} (h : ControlInv s) (hr : s.op = .run → ¬ AfterSettle s) :
    s.tken = false ∧ s.ptick = false := by
  have hk : s.tken = false := by
    by_contra hn
    have := h.tken_iff.1 (by simpa using hn)
    exact hr this.1 this.2
  refine ⟨hk, ?_⟩
  by_contra hn
  simpa [hk] using h.ptick_tken (by simpa using hn)

/-- In `IDLE` the control invariant looks at nothing that a host write stores. -/
theorem ControlInv.idle_congr {t u : State} (h : ControlInv t) (hf : t.fsm = .idle) (hfu : u.fsm = t.fsm)
    (ho : u.op = t.op) (hx : u.txi = t.txi) (hk : u.tken = t.tken) (hp : u.ptick = t.ptick) : ControlInv u := by
  have hnone : t.op = .none := h.op_none.2 (.inl hf)
  obtain ⟨hon, hpend⟩ := h.ticker_off (by simp [hnone])
  exact .ended (hx ▸ h.txi_le) (.inl (hfu.trans hf)) (ho.trans hnone) (hk.trans hon) (hp.trans hpend)

/-! ### The buffers and the outcome -/

/-- The counts may be set to anything in range. -/
theorem BufferInv.counts {t u : State} (h : BufferInv t) (hc : u.cfg = t.cfg) (hm : u.mem = t.mem)
    (hr : u.rawcnt.toNat ≤ t.cfg.rawCap) (hu : u.unscnt.toNat ≤ t.cfg.rawCap) : BufferInv u :=
  ⟨hm ▸ h.mem_wf, by rw [hm, hc]; exact h.mem_cells, hc ▸ hr, hc ▸ hu⟩

/-- One cell that exists is written. -/
theorem BufferInv.store {t u : State} (h : BufferInv t) {k : Nat} {v : Byte} (hc : u.cfg = t.cfg)
    (hm : u.mem = t.mem.write k v) (hk : (isRawIndex t.cfg.rawCap k || isUnsIndex t.cfg.rawCap k) = true)
    (hr : u.rawcnt.toNat ≤ t.cfg.rawCap) (hu : u.unscnt = t.unscnt) : BufferInv u := by
  refine ⟨hm ▸ Memory.write_wf h.mem_wf k v, fun c hcm => ?_, hc ▸ hr, by rw [hu, hc]; exact h.unscnt_le⟩
  rw [hc]
  rcases Memory.mem_write (hm ▸ hcm) with hcm | ⟨rfl, -⟩
  · exact h.mem_cells c hcm
  · exact hk

/-- A step out of `FWD`, or within the other states, that keeps the outcome registers or clears `RESULT`, and keeps the
reading or drops it. -/
theorem OutcomeInv.goesOn {t u : State} (h : OutcomeInv t) (hf : u.fsm ≠ .fwd) (hc : u.cfg = t.cfg)
    (hr : u.result = t.result ∨ u.result = ⟨.none, .none, 0⟩) (he : u.errinfo = t.errinfo) (hv : u.ev.code = t.ev.code)
    (hn : u.ev.count = t.ev.count) (hd : u.rd = t.rd) (hy : u.rdvalid = t.rdvalid ∨ u.rdvalid = false) :
    OutcomeInv u := by
  obtain ⟨-, h2, h3, h4, h5, h6⟩ := h
  refine ⟨fun h => absurd h hf, ?_, ?_, he ▸ h4, by rw [hv, hn, he]; exact h5, fun hu => ?_⟩
  · rcases hr with hr | hr <;> rw [hr]
    · exact h2
    · simp
  · rcases hr with hr | hr <;> rw [hr]
    · exact h3
    · simp
  · rw [hc, hd]
    rcases hy with hy | hy
    · exact h6 (hy ▸ hu)
    · simp [hy] at hu

/-- What a step that goes on with an operation or starts one keeps, and what it may clear as a cycle or a read starts. `FSM`,
`OP`, `ARG`, `TXI`, `DLCNT` and `TMR` are free. -/
structure Keeps (t u : State) : Prop where
  cfg : u.cfg = t.cfg
  mem : u.mem = t.mem
  tken : u.tken = t.tken
  ptick : u.ptick = t.ptick
  ptmr : u.ptmr = t.ptmr
  rd : u.rd = t.rd
  errinfo : u.errinfo = t.errinfo
  ev_code : u.ev.code = t.ev.code
  ev_count : u.ev.count = t.ev.count
  rawcnt : u.rawcnt = t.rawcnt ∨ u.rawcnt = 0
  unscnt : u.unscnt = t.unscnt ∨ u.unscnt = 0
  result : u.result = t.result ∨ u.result = ⟨.none, .none, 0⟩
  rdvalid : u.rdvalid = t.rdvalid ∨ u.rdvalid = false

theorem Keeps.buffers {t u : State} (hk : Keeps t u) (h : BufferInv t) : BufferInv u := by
  refine h.counts hk.cfg hk.mem ?_ ?_
  · rcases hk.rawcnt with hc | hc
    · exact hc ▸ h.rawcnt_le
    · simp [hc]
  · rcases hk.unscnt with hc | hc
    · exact hc ▸ h.unscnt_le
    · simp [hc]

theorem Keeps.outcome {t u : State} (hk : Keeps t u) (h : OutcomeInv t) (hf : u.fsm ≠ .fwd) : OutcomeInv u :=
  h.goesOn hf hk.cfg hk.result hk.errinfo hk.ev_code hk.ev_count hk.rd hk.rdvalid

/-- A step within one operation that goes to another state than `FWD` keeps the invariants. -/
theorem Inv.goesOn {t u : State} (h : Inv t) (hi : IndexInv u) (hw : Working u)
    (hr : u.op = .run → (AfterSettle u ↔ AfterSettle t)) (hf : u.fsm ≠ .fwd := by simp) (hop : u.op = t.op := by simp)
    (hk : Keeps t u := by constructor <;> simp) : Inv u :=
  ⟨hk.buffers h.buffers, h.control.goesOn hk.cfg hop hk.tken hk.ptick hk.ptmr hi hw hr, hk.outcome h.outcome hf⟩

/-- An operation that starts in `IDLE`, where the ticker is off, keeps the invariants. -/
theorem Inv.starts {t u : State} (h : Inv t) (ht : t.fsm = .idle) (hi : IndexInv u) (hw : Working u)
    (hr : u.op = .run → u.fsm = .txs := by simp) (hf : u.fsm ≠ .fwd := by simp)
    (hk : Keeps t u := by constructor <;> simp) : Inv u := by
  have hnone : t.op = .none := h.control.op_none.2 (.inl ht)
  obtain ⟨hon, hpend⟩ := h.control.ticker_off (by simp [hnone])
  exact ⟨hk.buffers h.buffers,
    .tickerOff hi hw (fun ho hs => hs.1 (hr ho)) (hk.tken.trans hon) (hk.ptick.trans hpend), hk.outcome h.outcome hf⟩

end Sys2Proof.Safety

namespace Sys2Proof.Machine

open Sys2Proof.Safety

/-! ### The shared operations keep the invariants -/

theorem complete_inv {s : State} {a : Act} (h : Inv a.st) (hop : a.st.op = s.op) (hf : a.st.fsm = s.fsm)
    (hs : s.op = .run → AfterSettle s) {k : Kind} {e : ErrCode} (hr : k ≠ .reading)
    (hk : e ≠ .none ↔ k = .error) (he : UsedCode e) (c : Byte) : Inv (complete s k e c a).st :=
  ⟨complete_buffers h.buffers k e c, complete_control h.control hop hf hs k e c,
    complete_outcome h.outcome hk he fun _ hc => absurd hc hr⟩

theorem raiseError_inv {s : State} {a : Act} (h : Inv a.st) (hop : a.st.op = s.op) (hf : a.st.fsm = s.fsm)
    (hs : s.op = .run → AfterSettle s) {e : ErrCode} (h0 : e ≠ .none) (he : UsedCode e) (c : Byte) :
    Inv (raiseError s e c a).st :=
  ⟨raiseError_buffers h.buffers e c, raiseError_control h.control hop hf hs e c,
    raiseError_outcome h.outcome h0 he c⟩

theorem unstuffInto_inv {s t : State} (h : Inv t) (hc : t.cfg = s.cfg) (hr : s.rawcnt.toNat ≤ s.cfg.rawCap) :
    Inv (unstuffInto s t) :=
  ⟨unstuffInto_buffers h.buffers hc hr, h.control.congr rfl rfl rfl rfl rfl rfl rfl rfl rfl,
    h.outcome.congr rfl rfl rfl rfl rfl rfl rfl rfl⟩

theorem decodeInto_inv {s : State} {a : Act} (h : Inv a.st) (hc : a.st.cfg = s.cfg) (hop : a.st.op = s.op)
    (hf : a.st.fsm = s.fsm) (hd : s.fsm = .dec) (p : List Byte) : Inv (decodeInto s p a).st :=
  ⟨decodeInto_buffers h.buffers p, decodeInto_control h.control hop hf (by simp [hd]) p,
    decodeInto_outcome h.outcome hc (by simp [hf, hd]) p⟩

theorem report_inv {a : Act} (h : Inv a.st) {e : ErrCode} (he : UsedCode e) (c : Byte) : Inv (report e c a).st :=
  ⟨h.buffers.congr rfl rfl rfl rfl, h.control.congr rfl rfl rfl rfl rfl rfl rfl rfl rfl, report_outcome h.outcome he c⟩

/-- The fatal sequence, while the ticker is off (R238). -/
theorem fatal_inv {a : Act} (h : Inv a.st) (hf : a.st.fsm = .txs) {e : ErrCode} (h0 : e ≠ .none) (he : UsedCode e)
    (c : Byte) : Inv (fatal e c a).st := by
  have hoff := h.control.ticker_off fun _ hs => hs.1 hf
  have ho := report_outcome h.outcome he c
  rw [fatal_eq]
  exact ⟨h.buffers.congr rfl rfl rfl rfl, .ended h.control.txi_le (.inr rfl) rfl rfl hoff.2,
    ⟨nofun, by simp [h0], he, he, ⟨rfl, rfl⟩, ho.rdvalid_reading⟩⟩

/-! ### The step of the state machine keeps the invariants -/

/-- A next byte of a frame stays inside the frame. -/
theorem byteSent_inv {s : State} (h : Inv s)
    (hx : (s.fsm = .txs ∧ s.txi.toNat < 7) ∨ (s.fsm = .txr ∧ s.txi.toNat < 5)) :
    Inv { (startAct s).st with txi := s.txi + 1 } := by
  refine h.startAct.goesOn ?_ ?_ (fun _ => Iff.rfl) (by rcases hx with hx | hx <;> simp [hx.1])
  · rcases hx with ⟨hf, hx⟩ | ⟨hf, hx⟩ <;> constructor <;> simp [hf] <;> omega
  · have ho := h.control.op_none
    have hl := h.control.pair
    rcases hx with ⟨hf, -⟩ | ⟨hf, -⟩ <;> simp_all [Working]

/-- A byte stored in `RDX` stays inside the buffer and the length to read. -/
theorem byteStored_inv {s : State} (h : Inv s) (hf : s.fsm = .rdx) (hn : s.rawcnt ≠ readLength s)
    (hcap : s.rawcnt.toNat < s.cfg.rawCap) (i : Inputs) :
    Inv (countDeadline s i { (startAct s).st with
      mem := (startAct s).st.mem.write (rawBase + s.rawcnt.toNat) i.rxData, rawcnt := s.rawcnt + 1 }) := by
  have h' := h.startAct
  have hle := s.cfg.rawCap_le
  have hne : s.rawcnt.toNat ≠ (readLength s).toNat := fun hc => hn (BitVec.eq_of_toNat_eq hc)
  refine ⟨h'.buffers.store (k := rawBase + s.rawcnt.toNat) (v := i.rxData) (by simp) (by simp) ?_ ?_ (by simp),
    h'.control.goesOn (by simp) (by simp) (by simp) (by simp) (by simp) ?_ ?_ (by simp [AfterSettle]),
    h'.outcome.congr (by simp) (by simp) (by simp) (by simp) (by simp) (by simp) (by simp) (by simp)⟩
  · simp [isRawIndex, hcap]
  · simp; omega
  · refine ⟨by simpa using h.control.txi_le, by simp [hf], by simp [hf], fun _ ho => ?_, fun _ ho => ?_, by simp [hf]⟩
    · have ho : s.op ≠ .readx := by simpa using ho
      have hc := h.control.rdx_cycle hf ho
      simp [readLength, ho, Config.frameLen] at hne hc ⊢
      omega
    · have ho : s.op = .readx := by simpa using ho
      have hc := h.control.rdx_readx hf ho
      simp [readLength, ho] at hne ⊢
      omega
  · have ho := h.control.op_none
    have hl := h.control.pair
    simp_all [Working]

/-- The last byte of a one-shot frame leaves `TXI` at the length of the frame. -/
theorem frameSent_inv {s : State} (h : Inv s) (hne : s.op ≠ .run) (hx : s.txi.toNat < 8) (c : Byte) :
    Inv (complete s .ok .none c { startAct s with st := { (startAct s).st with txi := s.txi + 1 } }).st := by
  have h' := h.startAct
  obtain ⟨hk, hp⟩ := h'.control.ticker_off fun hr => absurd (by simpa using hr) hne
  rw [complete_oneShot hne]
  exact ⟨h'.buffers.congr rfl rfl rfl rfl, .ended (by simp; omega) (.inl rfl) rfl hk hp,
    ⟨nofun, by simp, by simp, h'.outcome.errinfo_used, h'.outcome.ev_errinfo, h'.outcome.rdvalid_reading⟩⟩

/-- The end of `SETTLE` starts the ticker with a whole period (R203). -/
theorem tickerStarted_inv {s : State} (h : Inv s) (hop : s.op = .run) :
    Inv { (startAct s).st with tken := true, ptmr := s.cfg.tPeriod, ptick := false, fsm := .waitp } := by
  have h' := h.startAct
  have hi : IndexInv { (startAct s).st with fsm := .waitp } := .unindexed h'.control.txi_le (by simp)
  exact ⟨h'.buffers.congr rfl rfl rfl rfl,
    ⟨hi.1, hi.2, hi.3, by simp [legalPair, hop], by simp [hop], by simp [hop], by simp,
      by simpa using s.cfg.tPeriod_pos, hi.4, hi.5, hi.6⟩,
    h'.outcome.goesOn (by simp) rfl (.inl rfl) rfl rfl rfl rfl (.inl rfl)⟩

/-- Whatever the step of the state machine does, it keeps the invariants. -/
theorem FsmEffect.inv {s : State} {i : Inputs} {b : Act} (hb : FsmEffect s i (startAct s) b) (h : Inv s) :
    Inv b.st := by
  have h' := h.startAct
  have hx : s.txi.toNat ≤ 8 := h.control.txi_le
  cases hb with
  | stay => exact h'
  | byteSent hx => exact byteSent_inv h hx
  | frameSent c hop hx => exact frameSent_inv h (by rcases hop with hop | hop <;> simp [hop]) hx c
  | startSent hf hop hx =>
    exact h'.goesOn (.unindexed (by simp; omega) (by simp)) (by simp [Working, hop, legalPair])
      (by simp [AfterSettle, hf])
  | requestSent hf hop hx =>
    refine h'.goesOn ?_ ?_ (by simp [AfterSettle, hf])
    · exact ⟨by simp; omega, by simp, by simp, by simp, by rcases hop with hop | hop <;> simp [hop], by simp⟩
    · rcases hop with hop | hop <;> simp [Working, hop, legalPair]
  | startFailed hf => exact fatal_inv h' (by simpa using hf) (by decide) (by decide) _
  | raised e c hf he =>
    have hs : s.op = .run → AfterSettle s := fun _ => by rcases hf with hf | hf <;> simp [AfterSettle, hf]
    rcases he with rfl | rfl | rfl <;>
      exact raiseError_inv h' (by simp) (by simp) hs (by decide) (by decide) c
  | completed k e c hf hk =>
    have hs : s.op = .run → AfterSettle s := fun _ => by rcases hf with hf | hf <;> simp [AfterSettle, hf]
    rcases hk with ⟨rfl | rfl, rfl⟩ | ⟨rfl, rfl⟩ <;>
      exact complete_inv h' (by simp) (by simp) hs (by decide) (by decide) (by decide) c
  | requestBegun hf hop =>
    refine h'.goesOn (by constructor <;> simp) ?_ (by simp [AfterSettle, hf])
    rcases hop with hop | hop <;> simp [Working, hop, legalPair]
  | frameRead hf hop hr =>
    refine h'.goesOn ?_ ?_ (by simp [AfterSettle, hf])
    · exact ⟨by simpa using hx, by simp, by simp, by simp, by simp, by simp [hr, Config.frameLen]⟩
    · rcases hop with hop | hop <;> simp [Working, hop, legalPair]
  | byteStored hf hn hcap => exact byteStored_inv h hf hn hcap i
  | deadlineCounted hf =>
    exact ⟨h'.buffers.congr (by simp) (by simp) (by simp) (by simp),
      h'.control.congr (by simp) (by simp) (by simp) (by simp) (by simp) (by simp) (by simp) (by simp) (by simp),
      h'.outcome.congr (by simp) (by simp) (by simp) (by simp) (by simp) (by simp) (by simp) (by simp)⟩
  | unstuffed hf hop hr =>
    exact complete_inv (a := ⟨unstuffInto s (startAct s).st, (startAct s).hw⟩) (unstuffInto_inv h' (by simp) hr)
      (by simp) (by simp) (by simp [hop]) (by decide) (by decide) (by decide) _
  | decoded hf hop => exact decodeInto_inv h' (by simp) (by simp) (by simp) hf _
  | cycleDecoded hf hop hr =>
    exact decodeInto_inv (a := ⟨unstuffInto s (startAct s).st, (startAct s).hw⟩) (unstuffInto_inv h' (by simp) hr)
      (by simp) (by simp) (by simp) hf _
  | tickerStarted hf hop => exact tickerStarted_inv h hop
  | timerCounted hf =>
    exact ⟨h'.buffers.congr rfl rfl rfl rfl, h'.control.congr rfl rfl rfl rfl rfl rfl rfl rfl rfl,
      h'.outcome.congr rfl rfl rfl rfl rfl rfl rfl rfl⟩
  | subCycleBegun hf hop =>
    exact h'.goesOn (.unindexed (by simpa using hx) (by simp)) (by simp [Working, hop, legalPair])
      (by simp [AfterSettle, hf])
  | forwardFailed hf hop =>
    exact (report_inv h' (e := .forwardFailed) (by decide) 0).goesOn
      (.unindexed (by simpa [report] using hx) (by simp)) (by simp [Working, report, hop, legalPair])
      (by simp [AfterSettle, report, hf])
  | turnEnded hf hop =>
    exact h'.goesOn (.unindexed (by simpa using hx) (by simp)) (by simp [Working, hop, legalPair])
      (by rcases hf with hf | hf <;> simp [AfterSettle, hf])
  | liveSignalled hf hop =>
    exact h'.goesOn (u := { (startAct s).st with fsm := .waitp }) (.unindexed (by simpa using hx) (by simp))
      (by simp [Working, hop, legalPair]) (by simp [AfterSettle, hf])

/-! ### The host's part, `STOP` and reset keep the invariants -/

/-- The reset state meets the invariants (R270), whatever the parameters and the environment. -/
theorem resetWith_inv (cfg : Config.Params) (script : List Inputs) (draws : Nat) :
    Inv (State.resetWith cfg script draws) :=
  ⟨⟨⟨.nil, nofun⟩, nofun, Nat.zero_le _, Nat.zero_le _⟩, .ended (Nat.zero_le _) (.inl rfl) rfl rfl rfl,
    ⟨nofun, by simp [State.resetWith], by simp [State.resetWith], by simp [State.resetWith], ⟨rfl, rfl⟩, nofun⟩⟩

/-- What an accepted `STOP` leaves meets the invariants (R211). -/
theorem stopAct_inv {s : State} (h : Inv s) : Inv (stopAct s).st :=
  ⟨h.buffers.congr (by simp [stopAct]) (by simp [stopAct]) (by simp [stopAct]) (by simp [stopAct]),
    .ended (by simpa [stopAct] using h.control.txi_le) (.inr rfl) rfl rfl rfl,
    h.outcome.goesOn nofun (by simp [stopAct]) (by simp [stopAct]) (by simp [stopAct]) (by simp [stopAct])
      (by simp [stopAct]) (by simp [stopAct]) (by simp [stopAct])⟩

/-- Every accept sequence keeps the invariants (R97). -/
theorem Accepts.inv {s t : State} {eff : State → State} (hacc : Accepts s eff) (h : Inv t) (hf : t.fsm = .idle)
    (hc : t.cfg = s.cfg) : Inv (eff t) := by
  have hx : t.txi.toNat ≤ 8 := h.control.txi_le
  rcases hacc with rfl | rfl | rfl | ⟨n, hn, rfl⟩ | rfl | ⟨n, rfl⟩ | rfl | rfl
  · exact h.starts hf (by constructor <;> simp) (by simp [Working, legalPair])
  · exact h.starts hf (by constructor <;> simp) (by simp [Working, legalPair])
  · exact h.starts hf (.unindexed hx (by simp)) (by simp [Working, legalPair])
  · exact h.starts hf ⟨hx, by simp, by simp, by simp, by simpa [hc] using hn, by simp⟩ (by simp [Working, legalPair])
  · exact h.starts hf ⟨hx, by simp, by simp, by simp, by simp, by simp⟩ (by simp [Working, legalPair])
  · exact h.starts hf ⟨hx, by simp, by simp, by simp, by simp, by simp⟩ (by simp [Working, legalPair])
  · exact h.starts hf (.unindexed hx (by simp)) (by simp [Working, legalPair])
  · exact h.starts hf (by constructor <;> simp) (by simp [Working, legalPair])

theorem clampCount_le {cap : Nat} (hcap : cap ≤ 64) (w : Word) : (clampCount cap w).toNat ≤ cap := by
  rw [clampCount, BitVec.toNat_ofNat, Nat.mod_eq_of_lt (by omega)]
  exact Nat.min_le_right _ _

/-- A host write that takes effect changes at most `DEADLINE`, the counts and the cells. -/
theorem storeIdle_frame (cap : Nat) (idx : BitVec 8) (w : Word) (t : State) :
    ∃ d r u m, storeIdle cap idx w t = { t with deadline := d, rawcnt := r, unscnt := u, mem := m } := by
  simp only [storeIdle]
  split_ifs <;> exact ⟨_, _, _, _, rfl⟩

/-- A host write that takes effect keeps the buffers in range: counts are clamped, and only cells that exist are written
(R68 to R70). -/
theorem storeIdle_buffers {t : State} (h : BufferInv t) (idx : BitVec 8) (w : Word) :
    BufferInv (storeIdle t.cfg.rawCap idx w t) := by
  have hclamp := clampCount_le t.cfg.rawCap_le w
  simp only [storeIdle]
  split
  · exact h.congr rfl rfl rfl rfl
  split
  · exact h.counts rfl rfl hclamp h.unscnt_le
  split
  · exact h.counts rfl rfl h.rawcnt_le hclamp
  split
  · rename_i hidx; exact h.store rfl rfl hidx h.rawcnt_le rfl
  · exact h

theorem storeIdle_inv {t : State} (h : Inv t) (hf : t.fsm = .idle) (idx : BitVec 8) (w : Word) :
    Inv (storeIdle t.cfg.rawCap idx w t) := by
  obtain ⟨_, _, _, _, hfr⟩ := storeIdle_frame t.cfg.rawCap idx w t
  refine ⟨storeIdle_buffers h.buffers idx w, ?_, ?_⟩ <;> rw [hfr]
  · exact h.control.idle_congr hf rfl rfl rfl rfl rfl
  · exact h.outcome.congr rfl rfl rfl rfl rfl rfl rfl rfl

/-- The three things a host write to a word other than `CMD` can do: it stores in `IDLE`, it is rejected, or it sets `IE` or
is ignored. -/
theorem hostStore_st (s : State) (idx : BitVec 8) (w : Word) (a : Act) :
    (s.fsm = .idle ∧ (hostStore s idx w a).st = storeIdle s.cfg.rawCap idx w a.st) ∨
    (∃ ie, (hostStore s idx w a).st = { a.st with ie := ie }) := by
  unfold hostStore
  split
  · split
    · rename_i hf; exact .inl ⟨hf, rfl⟩
    · exact .inr ⟨_, rfl⟩
  · split
    · exact .inr ⟨_, rfl⟩
    · exact .inr ⟨_, rfl⟩

/-- The host's part of a step keeps the invariants: outside `IDLE` it stores nothing they look at, and in `IDLE` the state
machine has written nothing. -/
theorem HostPart.inv {s : State} {w : BitVec 7} {host : Act → Act} {a : Act} (hp : HostPart s w host)
    (ha : fsmStep s s.input (startAct s) = .ok a) (h : Inv a.st) : Inv (host a).st := by
  cases hp with
  | quiet => exact h
  | reject => exact h
  | accept eff hidle hacc =>
    obtain rfl := fsmStep_idle hidle ha
    exact hacc.inv h (by simpa using hidle) (by simp)
  | write =>
    rcases hostStore_st s s.input.hWidx s.input.hWdata a with ⟨hidle, heq⟩ | ⟨ie, heq⟩
    · obtain rfl := fsmStep_idle hidle ha
      rw [heq]
      simpa using storeIdle_inv h (by simpa using hidle) s.input.hWidx s.input.hWdata
    · rw [heq]
      exact ⟨h.buffers.congr rfl rfl rfl rfl, h.control.congr rfl rfl rfl rfl rfl rfl rfl rfl rfl,
        h.outcome.congr rfl rfl rfl rfl rfl rfl rfl rfl⟩

/-- Every step that answers a next state keeps the invariants. -/
theorem step_inv {s t : State} (hs : Inv s) (h : step s = .next t) : Inv t := by
  rcases step_next h with ⟨-, rfl⟩ | ⟨-, -, rfl⟩ | ⟨-, w, host, a, hp, ha, rfl⟩
  · exact resetWith_inv _ _ _
  · exact (stopAct_inv hs).finish 0
  · exact (hp.inv ha ((fsmStep_effect ha).inv hs)).finish w

end Sys2Proof.Machine

/-- Settles O3: by what a step can do (`step_next`), the effects of the state machine's step and the host's part each keep
the invariants. -/
theorem everyStepKeepsTheInvariants : Obligations.EveryStepKeepsTheInvariants :=
  fun _ _ => Sys2Proof.Machine.step_inv

namespace Sys2Proof.Machine

open Sys2Proof.Safety

/-! ### The host's part of a step, and its frame -/

/-- What no host's part of a step writes: the parameters, the reading registers and the error
registers. The interrupt bits set so far stay set. -/
structure HostKeeps (a b : Act) : Prop where
  cfg : b.st.cfg = a.st.cfg
  rd : b.st.rd = a.st.rd
  errinfo : b.st.errinfo = a.st.errinfo
  ev : b.st.ev = a.st.ev
  hw : b.hw = a.hw ∨ b.hw = a.hw ||| ipRej

/-- An accept sequence writes no register that only errors, decoding or the host write. -/
theorem Accepts.keeps {s : State} {eff : State → State} (hacc : Accepts s eff) (t : State) :
    (eff t).cfg = t.cfg ∧ (eff t).rd = t.rd ∧ (eff t).errinfo = t.errinfo ∧ (eff t).ev = t.ev ∧
      (eff t).deadline = t.deadline := by
  rcases hacc with rfl | rfl | rfl | ⟨n, -, rfl⟩ | rfl | ⟨n, rfl⟩ | rfl | rfl <;> exact ⟨rfl, rfl, rfl, rfl, rfl⟩

theorem hostStore_hw (s : State) (idx : BitVec 8) (w : Word) (a : Act) :
    (hostStore s idx w a).hw = a.hw ∨ (hostStore s idx w a).hw = a.hw ||| ipRej := by
  unfold hostStore
  split_ifs
  · exact .inl rfl
  · exact .inr rfl
  · exact .inl rfl
  · exact .inl rfl

theorem HostPart.keeps {s : State} {w : BitVec 7} {host : Act → Act} (hp : HostPart s w host) (a : Act) :
    HostKeeps a (host a) := by
  cases hp with
  | quiet => exact ⟨rfl, rfl, rfl, rfl, .inl rfl⟩
  | reject => exact ⟨rfl, rfl, rfl, rfl, .inr rfl⟩
  | accept eff hidle hacc =>
    obtain ⟨hcfg, hrd, herr, hev, -⟩ := hacc.keeps a.st
    exact ⟨hcfg, hrd, herr, hev, .inl rfl⟩
  | write =>
    have hhw := hostStore_hw s s.input.hWidx s.input.hWdata a
    rcases hostStore_st s s.input.hWidx s.input.hWdata a with ⟨-, heq⟩ | ⟨ie, heq⟩
    · obtain ⟨_, _, _, _, hfr⟩ := storeIdle_frame s.cfg.rawCap s.input.hWidx s.input.hWdata a.st
      rw [hfr] at heq
      exact ⟨by rw [heq], by rw [heq], by rw [heq], by rw [heq], hhw⟩
    · exact ⟨by rw [heq], by rw [heq], by rw [heq], by rw [heq], hhw⟩

/-- Outside `IDLE` the host's part writes `IE` at most. -/
theorem HostPart.busy_st {s : State} {w : BitVec 7} {host : Act → Act} (hp : HostPart s w host) (hf : s.fsm ≠ .idle)
    (a : Act) : ∃ ie, (host a).st = { a.st with ie := ie } := by
  cases hp with
  | quiet => exact ⟨_, rfl⟩
  | reject => exact ⟨_, rfl⟩
  | accept eff hidle => exact absurd hidle hf
  | write => exact (hostStore_st s s.input.hWidx s.input.hWdata a).resolve_left fun h => hf h.1

/-! ### What the shared operations leave in the reading and the error registers -/

/-- `complete` writes `RESULT`, and beside it at most `FSM`, `OP` and `TMR` (R235). -/
theorem complete_frame (s : State) (k : Kind) (e : ErrCode) (c : Byte) (a : Act) :
    ∃ f o tm, (complete s k e c a).st = { a.st with result := ⟨k, e, c⟩, fsm := f, op := o, tmr := tm } := by
  by_cases hr : s.op = .run
  · cases k <;> simp only [complete, hr, if_true, Act.set_st] <;> exact ⟨_, _, _, rfl⟩
  · rw [complete_oneShot hr]; exact ⟨_, _, _, rfl⟩

section
variable (s : State) (k : Kind) (e : ErrCode) (c : Byte) (a : Act)

@[simp] theorem complete_rd : (complete s k e c a).st.rd = a.st.rd := by
  obtain ⟨_, _, _, h⟩ := complete_frame s k e c a; rw [h]
@[simp] theorem complete_rdvalid : (complete s k e c a).st.rdvalid = a.st.rdvalid := by
  obtain ⟨_, _, _, h⟩ := complete_frame s k e c a; rw [h]
@[simp] theorem complete_result : (complete s k e c a).st.result = ⟨k, e, c⟩ := by
  obtain ⟨_, _, _, h⟩ := complete_frame s k e c a; rw [h]
@[simp] theorem complete_errinfo : (complete s k e c a).st.errinfo = a.st.errinfo := by
  obtain ⟨_, _, _, h⟩ := complete_frame s k e c a; rw [h]
@[simp] theorem complete_ev : (complete s k e c a).st.ev = a.st.ev := by
  obtain ⟨_, _, _, h⟩ := complete_frame s k e c a; rw [h]
@[simp] theorem complete_hw : (complete s k e c a).hw = a.hw ||| completionBits k := rfl
@[simp] theorem report_rd : (report e c a).st.rd = a.st.rd := rfl
@[simp] theorem raiseError_rd : (raiseError s e c a).st.rd = a.st.rd := complete_rd s _ e c (report e c a)
@[simp] theorem fatal_rd : (fatal e c a).st.rd = a.st.rd := by rw [fatal_eq]

end

/-- The decoding part of a `DEC` step writes the reading registers only when it succeeds, with `RDVALID` and `RESULT`
(R139). -/
theorem decodeInto_rd (s : State) (p : List Byte) (a : Act) :
    (decodeInto s p a).st.rd = a.st.rd ∨
      ((decodeInto s p a).st.rdvalid = true ∧ (decodeInto s p a).st.result = ⟨.reading, .none, 40⟩ ∧
        decodePayload s.cfg p = some (decodeInto s p a).st.rd) := by
  by_cases hp : p.length < 40
  · left; rw [decodeInto_short hp]; simp
  · right; rw [decodeInto_full (by omega)]; simp [decodePayload_some (by omega : 40 ≤ p.length)]

/-- The step of the state machine changes the reading registers only by a successful decode. -/
theorem FsmEffect.rd {s : State} {i : Inputs} {a b : Act} (hb : FsmEffect s i a b) (hne : b.st.rd ≠ a.st.rd) :
    s.fsm = .dec ∧ s.op ≠ .unstuff ∧ b.st.rdvalid = true ∧ b.st.result = ⟨.reading, .none, 40⟩ ∧
      ∃ p, decodePayload s.cfg p = some b.st.rd := by
  cases hb with
  | decoded hf hop =>
    obtain ⟨hv, hres, hdec⟩ := (decodeInto_rd s (s.payload s.arg.toNat) a).resolve_left hne
    exact ⟨hf, by simp [hop], hv, hres, _, hdec⟩
  | cycleDecoded hf hop hr =>
    obtain ⟨hv, hres, hdec⟩ := (decodeInto_rd s _ _).resolve_left hne
    exact ⟨hf, by rcases hop with hop | hop <;> simp [hop], hv, hres, _, hdec⟩
  | _ => exact absurd (by simp [decUnstuff, liveStep]) hne

end Sys2Proof.Machine

open Sys2Proof.Machine in
/-- Settles O10: only the decoding effects write `RD`, and in `DEC` the host's part leaves the outcome alone. -/
theorem readingChangesOnlyByASuccessfulDecode : Obligations.ReadingChangesOnlyByASuccessfulDecode := by
  intro s t h hrst hne
  rcases step_next h with ⟨hr, -⟩ | ⟨-, -, rfl⟩ | ⟨-, w, host, a, hp, ha, rfl⟩
  · simp [hrst] at hr
  · exact absurd (by simp [stopAct]) hne
  · have hrd : a.st.rd ≠ (startAct s).st.rd := by simpa [(hp.keeps a).rd] using hne
    obtain ⟨hf, hop, hv, hres, p, hdec⟩ := (fsmStep_effect ha).rd hrd
    obtain ⟨ie, hst⟩ := hp.busy_st (by simp [hf]) a
    simp only [Act.finish_rdvalid, Act.finish_result, Act.finish_rd, hst]
    exact ⟨hf, hop, hv, hres, p, hdec⟩

namespace Sys2Proof.Machine

open Sys2Proof.Safety

/-! ### Events -/

/-- `report` has run: the event is valid, `ERRINFO` holds the same code and count, and `IP.ERROR` is set (R236, R237). -/
def Reported (a : Act) : Prop := a.st.ev.valid = true ∧ a.st.errinfo = ⟨a.st.ev.code, a.st.ev.count⟩ ∧ a.hw.getLsbD 3 = true

theorem report_reported (e : ErrCode) (c : Byte) (a : Act) : Reported (report e c a) :=
  ⟨rfl, rfl, by simp [report, ipError]⟩

/-- Completing an operation writes neither the event nor `ERRINFO` (R235). -/
theorem Reported.complete {a : Act} (h : Reported a) (s : State) (k : Kind) (e : ErrCode) (c : Byte) :
    Reported (complete s k e c a) := by
  obtain ⟨hv, he, hw⟩ := h
  exact ⟨by simpa using hv, by simpa using he, by simp [hw]⟩

theorem raiseError_reported (s : State) (e : ErrCode) (c : Byte) (a : Act) : Reported (raiseError s e c a) :=
  (report_reported e c a).complete s .error e c

theorem fatal_reported (e : ErrCode) (c : Byte) (a : Act) : Reported (fatal e c a) := by
  rw [fatal_eq]; exact ⟨rfl, rfl, by simp [ipError]⟩

theorem decodeInto_reported (s : State) (p : List Byte) (a : Act) :
    Reported (decodeInto s p a) ∨
      ((decodeInto s p a).st.ev = a.st.ev ∧ (decodeInto s p a).st.errinfo = a.st.errinfo) := by
  by_cases hp : p.length < 40
  · left; rw [decodeInto_short hp]; exact raiseError_reported s _ _ _
  · right; rw [decodeInto_full (by omega)]; simp

/-- The step of the state machine reports an error, or leaves the event and `ERRINFO` alone. -/
theorem FsmEffect.reported {s : State} {i : Inputs} {a b : Act} (hb : FsmEffect s i a b) :
    Reported b ∨ (b.st.ev = a.st.ev ∧ b.st.errinfo = a.st.errinfo) := by
  cases hb with
  | startFailed => exact .inl (fatal_reported _ _ a)
  | raised e c => exact .inl (raiseError_reported s e c a)
  | forwardFailed => exact .inl (report_reported .forwardFailed 0 a)
  | decoded => exact decodeInto_reported s _ a
  | cycleDecoded => exact decodeInto_reported s _ _
  | _ => right; simp [decUnstuff, liveStep]

/-- A bit set in a step is set after it, whatever the host clears (R242). -/
theorem composeIp_getLsbD {hw : BitVec 7} {k : Nat} (h : hw.getLsbD k = true) (ip w1c : BitVec 7) :
    (composeIp ip w1c hw).getLsbD k = true := by
  simp [composeIp, h]

theorem and_ipError {x : BitVec 7} (h : x.getLsbD 3 = true) : x &&& 0x08 = 0x08 := by
  revert x; decide

end Sys2Proof.Machine

open Sys2Proof.Machine in
/-- Settles O11: the state machine's step reports or leaves the event and `ERRINFO` alone, the host's part writes neither, and
a step begins by clearing `EV.valid`. -/
theorem eventsMirrorErrinfo : Obligations.EventsMirrorErrinfo := by
  intro s t h hrst
  rcases step_next h with ⟨hr, -⟩ | ⟨-, -, rfl⟩ | ⟨-, w, host, a, hp, ha, rfl⟩
  · simp [hrst] at hr
  · right; simp [stopAct]
  · have hk := hp.keeps a
    simp only [Act.finish_ev, Act.finish_errinfo, Act.finish_ip, hk.ev, hk.errinfo]
    rcases (fsmStep_effect ha).reported with ⟨hv, he, hw⟩ | ⟨hev, herr⟩
    · have hw' : (host a).hw.getLsbD 3 = true := by rcases hk.hw with hh | hh <;> simp [hh, hw]
      exact .inl ⟨hv, he, and_ipError (composeIp_getLsbD hw' s.ip w)⟩
    · right; simp [hev, herr]

namespace Sys2Proof.Machine

open Sys2Proof.Safety

/-! ### `DEADLINE` -/

/-- A host write changes `DEADLINE` only in `IDLE`, at its own word, to the word written (R68). -/
theorem hostStore_deadline {s : State} {idx : BitVec 8} {w : Word} {a : Act}
    (h : (hostStore s idx w a).st.deadline ≠ a.st.deadline) :
    s.fsm = .idle ∧ idx = 0x04 ∧ (hostStore s idx w a).st.deadline = w := by
  rcases hostStore_st s idx w a with ⟨hidle, heq⟩ | ⟨ie, heq⟩
  · rw [heq] at h ⊢
    by_cases hidx : idx.toNat = 0x04
    · exact ⟨hidle, BitVec.eq_of_toNat_eq hidx, by simp [storeIdle, hidx]⟩
    · refine absurd ?_ h
      simp only [storeIdle, if_neg hidx]
      split_ifs <;> rfl
  · exact absurd (by rw [heq]) h

/-- Of the host's parts only a register write changes `DEADLINE`. -/
theorem HostPart.deadline {s : State} {w : BitVec 7} {host : Act → Act} (hp : HostPart s w host) {a : Act}
    (h : (host a).st.deadline ≠ a.st.deadline) :
    s.fsm = .idle ∧ s.input.hWidx = 0x04 ∧ (host a).st.deadline = s.input.hWdata := by
  cases hp with
  | quiet => exact absurd rfl h
  | reject => exact absurd rfl h
  | accept eff _ hacc =>
    obtain ⟨-, -, -, -, hdl⟩ := hacc.keeps a.st
    exact absurd hdl h
  | write => exact hostStore_deadline h

/-- A step without reset or host write keeps `DEADLINE`: no state's step writes it. -/
theorem step_quiet_deadline {s t : State} (hq : HostQuiet s) (h : step s = .next t) : t.deadline = s.deadline := by
  rw [step_quiet hq] at h
  obtain ⟨a, ha, rfl⟩ := clockStep_next h
  simpa using (fsmStep_fixed ha).deadline

/-- No step writes the parameters (R287). -/
theorem step_cfg {s t : State} (h : step s = .next t) : t.cfg = s.cfg := by
  rcases step_next h with ⟨-, rfl⟩ | ⟨-, -, rfl⟩ | ⟨-, w, host, a, hp, ha, rfl⟩
  · rfl
  · simp [stopAct]
  · simpa [(hp.keeps a).cfg] using (fsmStep_fixed ha).cfg

/-- A step without reset changes `DEADLINE` only by a host write to it in `IDLE`. -/
theorem step_deadline {s t : State} (h : step s = .next t) (hrst : s.input.rst = false) (hne : t.deadline ≠ s.deadline) :
    s.fsm = .idle ∧ HostWritesWord s 0x04 t.deadline := by
  have hw : hostWrites s.input = true := by
    by_contra hn
    exact hne (step_quiet_deadline ⟨hrst, by simpa using hn⟩ h)
  rcases step_next h with ⟨hr, -⟩ | ⟨-, -, rfl⟩ | ⟨-, w, host, a, hp, ha, rfl⟩
  · simp [hrst] at hr
  · exact absurd (by simp [stopAct]) hne
  · have hfix : a.st.deadline = s.deadline := by simpa using (fsmStep_fixed ha).deadline
    obtain ⟨hidle, hidx, hval⟩ := hp.deadline (a := a) (by simpa [hfix] using hne)
    exact ⟨hidle, hrst, hw, hidx, by simpa using hval.symm⟩

end Sys2Proof.Machine

/-- Settles O12: no state's step writes `DEADLINE` or the parameters, and of the host's parts only a register write does. -/
theorem deadlineChangesOnlyByTheHostInIdle : Obligations.DeadlineChangesOnlyByTheHostInIdle :=
  fun _ _ h => ⟨Sys2Proof.Machine.step_cfg h, Sys2Proof.Machine.step_deadline h⟩

namespace Sys2Proof.Machine

/-! ### The numbers of the code tables (R21, R22, R230, R234) -/

theorem fsmCode_mem (f : Fsm) :
    (f, f.code.toNat) ∈
      [(Fsm.idle, 0), (Fsm.txs, 1), (Fsm.txr, 2), (Fsm.drn, 3), (Fsm.rdx, 4), (Fsm.dec, 5), (Fsm.settle, 6),
       (Fsm.waitp, 7), (Fsm.fwd, 8), (Fsm.cool, 9), (Fsm.live, 10), (Fsm.exited, 11)] := by
  cases f <;> decide

theorem operationCode_mem (o : Operation) :
    (o, o.code.toNat) ∈
      [(Operation.none, 0), (Operation.txstart, 1), (Operation.txreq, 2), (Operation.drain, 3), (Operation.readx, 4),
       (Operation.unstuff, 5), (Operation.decode, 6), (Operation.sample, 7), (Operation.run, 8)] := by
  cases o <;> decide

theorem kindCode_mem (k : Kind) :
    (k, k.code.toNat) ∈ [(Kind.none, 0), (Kind.ok, 1), (Kind.reading, 2), (Kind.nodata, 3), (Kind.error, 4)] := by
  cases k <;> decide

theorem errCode_mem (e : ErrCode) :
    (e, e.code.toNat) ∈
      [(ErrCode.none, 0), (ErrCode.configMissing, 1), (ErrCode.transportOpenFailed, 2), (ErrCode.sensorStartFailed, 3),
       (ErrCode.requestFailed, 4), (ErrCode.timeout, 5), (ErrCode.shortFrame, 6), (ErrCode.malformedPayload, 7),
       (ErrCode.ioError, 8), (ErrCode.streamClosed, 9), (ErrCode.forwardFailed, 10)] := by
  cases e <;> decide

/-! ### The fields of the register views (R39, R41)

Each field is found by leaving out the fields below it. -/

theorem resultWord_fields (r : ResultReg) :
    (resultWord r).extractLsb' 0 3 = r.kind.code ∧ (resultWord r).extractLsb' 3 5 = r.err.code ∧
      (resultWord r).extractLsb' 8 8 = r.count ∧ (resultWord r).extractLsb' 16 16 = 0 := by
  unfold resultWord
  refine ⟨?_, ?_, ?_, ?_⟩ <;> repeat refine (BitVec.extractLsb'_append_eq_of_le (by omega)).trans ?_
  on_goal 4 => exact BitVec.extractLsb'_eq_self
  all_goals exact BitVec.extractLsb'_append_eq_right

theorem errinfoWord_fields (e : ErrInfoReg) :
    (errinfoWord e).extractLsb' 0 5 = e.code.code ∧ (errinfoWord e).extractLsb' 5 3 = 0 ∧
      (errinfoWord e).extractLsb' 8 8 = e.count ∧ (errinfoWord e).extractLsb' 16 16 = 0 := by
  unfold errinfoWord
  refine ⟨?_, ?_, ?_, ?_⟩ <;> repeat refine (BitVec.extractLsb'_append_eq_of_le (by omega)).trans ?_
  on_goal 4 => exact BitVec.extractLsb'_eq_self
  all_goals exact BitVec.extractLsb'_append_eq_right

theorem statusWord_fields (s : State) :
    (statusWord s).extractLsb' 0 4 = s.fsm.code ∧ (statusWord s).extractLsb' 4 4 = s.op.code ∧
      (statusWord s).extractLsb' 8 1 = bit (busy s) ∧ (statusWord s).extractLsb' 9 1 = bit s.rdvalid ∧
      (statusWord s).extractLsb' 10 1 = bit s.tken ∧ (statusWord s).extractLsb' 11 1 = bit s.ptick ∧
      (statusWord s).extractLsb' 12 1 = bit (decide (s.fsm = .exited)) ∧
      (statusWord s).extractLsb' 13 1 = bit s.exitcode ∧ (statusWord s).extractLsb' 14 2 = 0 ∧
      (statusWord s).extractLsb' 16 4 = s.txi ∧ (statusWord s).extractLsb' 20 4 = 0 ∧
      (statusWord s).extractLsb' 24 8 = s.arg := by
  unfold statusWord
  refine ⟨?_, ?_, ?_, ?_, ?_, ?_, ?_, ?_, ?_, ?_, ?_, ?_⟩ <;>
    repeat refine (BitVec.extractLsb'_append_eq_of_le (by omega)).trans ?_
  on_goal 12 => exact BitVec.extractLsb'_eq_self
  all_goals exact BitVec.extractLsb'_append_eq_right

/-- A field of one bit is that bit of the word. -/
theorem getLsbD_of_bit {w : Word} {k : Nat} {b : Bool} (h : w.extractLsb' k 1 = bit b) : w.getLsbD k = b := by
  have h0 : (w.extractLsb' k 1).getLsbD 0 = (bit b).getLsbD 0 := by rw [h]
  cases b <;> simpa [bit] using h0

/-- The read value of one of the ten reading registers (R41). -/
theorem regRead_rd (s : State) (i : Fin 10) : regRead s (BitVec.ofNat 8 (0x10 + i.val)) = s.rd[i] := by
  have hn : (BitVec.ofNat 8 (0x10 + i.val)).toNat = 0x10 + i.val := by
    rw [BitVec.toNat_ofNat]; omega
  simp only [regRead, hn]
  iterate 11 rw [if_neg (by omega)]
  rw [if_pos (by omega)]
  simp

/-- The read value of a cell of `RAW` or `UNS` (R41, R65). -/
theorem regRead_cell (s : State) {n : Nat} (hn : n < 256)
    (h : (isRawIndex s.cfg.rawCap n || isUnsIndex s.cfg.rawCap n) = true) :
    (regRead s (BitVec.ofNat 8 n)).toNat = (s.mem.read n).toNat := by
  have hm : (BitVec.ofNat 8 n).toNat = n := by rw [BitVec.toNat_ofNat]; omega
  have hlow : 0x40 ≤ n := by
    simp only [isRawIndex, isUnsIndex, Bool.or_eq_true, decide_eq_true_eq] at h
    simp only [rawBase, unsBase] at h
    omega
  simp only [regRead, hm]
  iterate 12 rw [if_neg (by omega)]
  rw [if_pos h]
  exact BitVec.toNat_setWidth_of_le (by omega)

end Sys2Proof.Machine

open Sys2Proof.Machine in
/-- Settles O24: by the fields of the view, and the code tables. -/
theorem statusShowsTheState : Obligations.StatusShowsTheState := by
  intro s
  obtain ⟨hfsm, hop, hbusy, hval, htken, hptick, hexited, hcode, hz1, htxi, hz2, harg⟩ := statusWord_fields s
  exact ⟨rfl, hfsm ▸ fsmCode_mem s.fsm, hop ▸ operationCode_mem s.op, getLsbD_of_bit hbusy, getLsbD_of_bit hval,
    getLsbD_of_bit htken, getLsbD_of_bit hptick, getLsbD_of_bit hexited, getLsbD_of_bit hcode, hz1, htxi, hz2, harg⟩

open Sys2Proof.Machine in
/-- Settles O23: by the register map, the fields of the two views, and the code tables. -/
theorem registersReadAsTheMapSays : Obligations.RegistersReadAsTheMapSays := by
  intro s
  obtain ⟨hkind, herr, hcount, hzero⟩ := resultWord_fields s.result
  obtain ⟨hcode, hmid, hecount, hezero⟩ := errinfoWord_fields s.errinfo
  have hcap := s.cfg.rawCap_le
  refine ⟨⟨hkind ▸ kindCode_mem _, herr ▸ errCode_mem _, hcount, hzero⟩,
    ⟨hcode ▸ errCode_mem _, hmid, hecount, hezero⟩, rfl, ?_, ?_, ?_, ?_, rfl, rfl, rfl, regRead_rd s, fun i hi => ⟨?_, ?_⟩⟩
  · exact BitVec.toNat_setWidth_of_le (show 7 ≤ 32 by omega)
  · exact BitVec.toNat_setWidth_of_le (show 7 ≤ 32 by omega)
  · exact BitVec.toNat_setWidth_of_le (show 8 ≤ 32 by omega)
  · exact BitVec.toNat_setWidth_of_le (show 8 ≤ 32 by omega)
  · exact regRead_cell s (by omega) (by simp [isRawIndex, rawBase, hi])
  · exact regRead_cell s (by omega) (by simp [isUnsIndex, unsBase, hi])

namespace Sys2Proof.Machine

/-! ### The outputs (R44 to R50) -/

/-- `rx_take`: in `RDX` with the buffer not full, the deadline not passed and something presented, and in `DRN` with something
presented (R163, R168). -/
theorem rxTake_iff (s : State) (i : Inputs) :
    rxTake s i = true ↔
      (s.fsm = .rdx ∧ s.rawcnt ≠ readLength s ∧ s.dlcnt ≠ 0 ∧ i.rxSt ≠ .none) ∨ (s.fsm = .drn ∧ i.rxSt ≠ .none) := by
  unfold rxTake
  cases s.fsm <;> simp

theorem startRom_getD : ∀ k : Fin 8, startRom.getD k 0 = #v[0x7E, 0x00, 0x00, 0x02, 0x01, 0x03, 0xF9, 0x7E][k] := by
  decide

theorem reqRom_getD : ∀ k : Fin 6, reqRom.getD k 0 = #v[0x7E, 0x00, 0x03, 0x00, 0xFC, 0x7E][k] := by decide

theorem txData_txs {s : State} (h : s.fsm = .txs) (k : Fin 8) (hk : s.txi.toNat = k) :
    txData s = #v[0x7E, 0x00, 0x00, 0x02, 0x01, 0x03, 0xF9, 0x7E][k] := by
  simp only [txData, h, hk]
  exact startRom_getD k

theorem txData_txr {s : State} (h : s.fsm = .txr) (k : Fin 6) (hk : s.txi.toNat = k) :
    txData s = #v[0x7E, 0x00, 0x03, 0x00, 0xFC, 0x7E][k] := by
  simp only [txData, h, hk]
  exact reqRom_getD k

theorem txData_other {s : State} (hs : s.fsm ≠ .txs) (hr : s.fsm ≠ .txr) : txData s = 0 := by
  unfold txData
  split
  · contradiction
  · contradiction
  all_goals rfl

/-- `snk_data` is the ten reading registers, the first the most significant (R48). -/
theorem snkData_field (s : State) {k : Nat} (hk : k < 10) : (snkData s).extractLsb' (32 * (9 - k)) 32 = s.rd[k] := by
  unfold snkData
  interval_cases k <;> repeat refine (BitVec.extractLsb'_append_eq_of_le (by omega)).trans ?_
  on_goal 1 => exact BitVec.extractLsb'_eq_self
  all_goals exact BitVec.extractLsb'_append_eq_right

/-- `irq` is raised exactly when some bit is pending and enabled (R241). -/
theorem irq_iff (s : State) : irq s = true ↔ ∃ k : Fin 7, s.ip[k] = true ∧ s.ie[k] = true := by
  have hbit : s.ip &&& s.ie = 0 ↔ ∀ k : Fin 7, ¬ (s.ip[k] = true ∧ s.ie[k] = true) := by
    constructor
    · intro h k hk
      have hz : (s.ip &&& s.ie)[k] = false := by simp [h]
      simp only [Fin.getElem_fin] at hz hk
      simp [hk] at hz
    · intro h
      ext k hk
      simpa using h ⟨k, hk⟩
  simp only [irq, decide_eq_true_eq, ne_eq, hbit, not_forall, not_not]

theorem readData_eq (s : State) (i : Inputs) :
    readData s i = if i.hSel = true ∧ i.hWe = false then regRead s i.hWidx else 0 := by
  simp [readData]

end Sys2Proof.Machine

open Sys2Proof.Machine in
/-- Settles O53: output by output. -/
theorem outputsAreFunctionsOfTheState : Obligations.OutputsAreFunctionsOfTheState := by
  intro s i
  refine ⟨rxTake_iff s i, by simp [out, txValid], fun k hf hk => txData_txs hf k hk, fun k hf hk => txData_txr hf k hk,
    txData_other, by simp [out], fun k => snkData_field s k.isLt, by simp [out],
    ⟨rfl, rfl, errCode_mem _⟩, irq_iff s, readData_eq s i,
    fun j => ⟨rfl, fun hst => ?_, fun hsel hwe hidx => ?_⟩⟩
  · rw [Bool.eq_iff_iff]
    simp only [out, rxTake_iff, hst]
  · simp only [out, readData, hsel, hwe, hidx]

/-! The memory family (20_memory.md): what a host access to the register space does to the step it happens in. -/

open Sys2Proof.Machine in
/-- Settles O13: this is what `step` does with a command word. -/
theorem stepRunsTheDecodedCommand : Obligations.StepRunsTheDecodedCommand :=
  fun _ _ _ hw hd => step_command hw hd

namespace Sys2Proof.Machine

open Sys2Proof.Safety

/-! ### What a host write to a word other than `CMD` does (R66 to R73) -/

section
variable {s : State} {idx : BitVec 8} {w : Word}

/-- The cells of the two buffers, by their numbers (R41, R65). -/
theorem isCell_iff {cap n : Nat} : (isRawIndex cap n || isUnsIndex cap n) = true ↔
    (0x40 ≤ n ∧ n < 0x40 + cap) ∨ (0x80 ≤ n ∧ n < 0x80 + cap) := by
  simp only [isRawIndex, isUnsIndex, Bool.or_eq_true, decide_eq_true_eq]
  rfl

/-- The words that take a write only in `IDLE`, by their numbers (R66). -/
theorem idleGated_iff {cap : Nat} :
    idleGated cap idx = true ↔ idx.toNat = 0x04 ∨ idx.toNat = 0x07 ∨ idx.toNat = 0x08 ∨
      (0x40 ≤ idx.toNat ∧ idx.toNat < 0x40 + cap) ∨ (0x80 ≤ idx.toNat ∧ idx.toNat < 0x80 + cap) := by
  rw [idleGated, Bool.or_assoc, Bool.or_eq_true, isCell_iff]
  simp only [decide_eq_true_eq, or_assoc]

/-- Neither `CMD` nor `IP` is gated. -/
theorem ne_of_idleGated {cap : Nat} (h : idleGated cap idx = true) : idx ≠ 0#8 ∧ idx.toNat ≠ 0x06 := by
  rw [idleGated_iff] at h
  exact ⟨by rintro rfl; simp at h, by omega⟩

/-- In `IDLE` a write to a gated word stores (R66). -/
theorem hostStore_of_idle (hg : idleGated s.cfg.rawCap idx = true) (hf : s.fsm = .idle) (a : Act) :
    hostStore s idx w a = { a with st := storeIdle s.cfg.rawCap idx w a.st } := by
  simp [hostStore, hg, hf]

/-- Outside `IDLE` a write to a gated word is rejected (R66). -/
theorem hostStore_of_busy (hg : idleGated s.cfg.rawCap idx = true) (hf : s.fsm ≠ .idle) :
    hostStore s idx w = Act.reject := by
  funext a
  simp [hostStore, hg, hf]

/-- A write to `IE` takes effect in every state (R71). -/
theorem hostStore_ie (a : Act) : hostStore s 0x05 w a = { a with st := { a.st with ie := w.setWidth 7 } } := by
  have hg : ¬ idleGated s.cfg.rawCap 0x05 = true := by rw [idleGated_iff]; simp
  rw [hostStore, if_neg hg, if_pos (by decide)]

/-- A write to any other word stores nothing: that to `IP` acts through its clear mask alone (R72, R73). -/
theorem hostStore_ignored (hg : ¬ idleGated s.cfg.rawCap idx = true) (h5 : idx.toNat ≠ 0x05) :
    hostStore s idx w = id := by
  funext a
  simp [hostStore, hg, h5]

/-- A step with a host write to a word other than `CMD` and `IP`: nothing of `IP` is cleared. -/
theorem step_write_unmasked (h : HostWritesWord s idx w) (h0 : idx ≠ 0#8) (h6 : idx.toNat ≠ 0x06) :
    step s = clockStep s 0 (hostStore s idx w) := by
  rw [step_write h h0, if_neg h6]

end

/-! ### Writes to `IE` (R71) -/

/-- A host's part that writes `IE` leaves what the quiet step leaves, and `IE` (R71). -/
theorem clockStep_ie_of_quiet {s t : State} (h : quietStep s = .next t) (ie : BitVec 7) :
    clockStep s 0 (fun a => { a with st := { a.st with ie := ie } }) = .next { t with ie := ie } := by
  obtain ⟨a, ha, rfl⟩ := clockStep_next h
  exact clockStep_ok ha 0 _

end Sys2Proof.Machine

open Sys2Proof.Machine in
/-- Settles O25: the host's part of such a step is the rejection. -/
theorem idleGatedWritesAreRejectedWhenNotIdle : Obligations.IdleGatedWritesAreRejectedWhenNotIdle := by
  intro s t idx w hw hf hidx hq
  have hg : idleGated s.cfg.rawCap idx = true := idleGated_iff.2 (by simpa [BitVec.toNat_eq] using hidx)
  obtain ⟨h0, h6⟩ := ne_of_idleGated hg
  rw [step_write_unmasked hw h0 h6, hostStore_of_busy hg hf]
  exact rejectStep_of_quiet hq

open Sys2Proof.Machine in
/-- Settles O28: the host's part of such a step writes `IE` beside whatever the state machine does. -/
theorem interruptEnableWritesAlwaysWork : Obligations.InterruptEnableWritesAlwaysWork := by
  intro s t w hw hq
  rw [step_write_unmasked hw (by decide) (by decide), funext hostStore_ie]
  exact clockStep_ie_of_quiet hq _

open Sys2Proof.Machine in
/-- Settles O30: the host's part of such a step is empty, for none of these words is gated, `IE` or `IP`. -/
theorem otherWritesAreIgnored : Obligations.OtherWritesAreIgnored := by
  intro s idx w hw hidx
  have hcap := s.cfg.rawCap_le
  have h0 : idx ≠ 0#8 := by rintro rfl; simp at hidx
  have hg : ¬ idleGated s.cfg.rawCap idx = true := by rw [idleGated_iff]; omega
  rw [step_write_unmasked hw h0 (by omega), hostStore_ignored hg (by omega)]
  rfl

namespace Sys2Proof.Machine

open Sys2Proof.Safety

/-! ### Writes in `IDLE` (R68 to R70) -/

/-- When a step clears and sets no bit of `IP`, its last item changes nothing (R242). -/
theorem finish_of_unset {s t : State} (h : t.ip = s.ip) : Act.finish s 0 ⟨t, 0⟩ = t := by
  show { t with ip := composeIp s.ip 0 0 } = t
  rw [composeIp_quiet, ← h]

theorem storeIdle_ip (cap : Nat) (idx : BitVec 8) (w : Word) (t : State) : (storeIdle cap idx w t).ip = t.ip := by
  obtain ⟨_, _, _, _, h⟩ := storeIdle_frame cap idx w t
  rw [h]

/-- The step of `IDLE` without a host write, with the ticker off. -/
theorem step_idle_quiet {s : State} (hf : s.fsm = .idle) (ht : s.tken = false) (hq : HostQuiet s) :
    step s = .next { s.advance with ev := { s.ev with valid := false } } := by
  rw [step_quiet hq, quietStep, clockStep_idle hf ht, id, finish_of_unset (by simp)]

/-- The step of `IDLE` with a host write to a gated word, with the ticker off. -/
theorem step_idle_write {s : State} {idx : BitVec 8} {w : Word} (hf : s.fsm = .idle) (ht : s.tken = false)
    (hw : HostWritesWord s idx w) (hg : idleGated s.cfg.rawCap idx = true) :
    step s = .next (storeIdle s.cfg.rawCap idx w { s.advance with ev := { s.ev with valid := false } }) := by
  obtain ⟨h0, h6⟩ := ne_of_idleGated hg
  rw [step_write_unmasked hw h0 h6, clockStep_idle hf ht, hostStore_of_idle hg hf,
    finish_of_unset (by simp [storeIdle_ip])]

/-- The word of a cell reads its byte zero extended (R41). -/
theorem regRead_eq_cell {s : State} {idx : BitVec 8}
    (h : (0x40 ≤ idx.toNat ∧ idx.toNat < 0x40 + s.cfg.rawCap) ∨ (0x80 ≤ idx.toNat ∧ idx.toNat < 0x80 + s.cfg.rawCap)) :
    regRead s idx = (s.mem.read idx.toNat).setWidth 32 := by
  refine BitVec.eq_of_toNat_eq ?_
  rw [BitVec.toNat_setWidth_of_le (by omega), ← regRead_cell s idx.isLt (isCell_iff.2 h), BitVec.ofNat_toNat,
    BitVec.setWidth_eq]

/-- A write to a cell stores the low byte there (R70). -/
theorem storeIdle_cell {cap : Nat} {idx : BitVec 8}
    (h : (0x40 ≤ idx.toNat ∧ idx.toNat < 0x40 + cap) ∨ (0x80 ≤ idx.toNat ∧ idx.toNat < 0x80 + cap)) (w : Word)
    (t : State) :
    storeIdle cap idx w t = { t with mem := t.mem.write idx.toNat (w.setWidth 8) } := by
  simp only [storeIdle]
  iterate 3 rw [if_neg (by omega)]
  rw [if_pos (isCell_iff.2 h)]

end Sys2Proof.Machine

open Sys2Proof.Machine in
/-- Settles O26: the step of `IDLE` leaves what the host's part stores. -/
theorem idleWritesSetDeadlineAndCounts : Obligations.IdleWritesSetDeadlineAndCounts := by
  intro s w hf ht
  exact ⟨step_idle_quiet hf ht, fun hw => step_idle_write hf ht hw (idleGated_iff.2 (by simp)),
    fun hw => step_idle_write hf ht hw (idleGated_iff.2 (by simp)),
    fun hw => step_idle_write hf ht hw (idleGated_iff.2 (by simp))⟩

open Sys2Proof.Machine in
/-- Settles O27: the step stores the byte in the memory alone, whose laws say what each cell then reads. -/
theorem bufferCellWritesReadBack : Obligations.BufferCellWritesReadBack := by
  intro s idx w hf ht hm hw hidx
  refine ⟨_, step_idle_write hf ht hw (idleGated_iff.2 (.inr (.inr (.inr hidx)))), ?_⟩
  rw [storeIdle_cell hidx]
  refine ⟨?_, fun a ha => ?_, by simp⟩
  · exact (regRead_eq_cell (by simpa using hidx)).trans
      (congrArg (BitVec.setWidth 32) (Memory.read_write_same (by simpa using hm) _ _))
  · simpa using Memory.read_write_ne hm ha.symm _

namespace Sys2Proof.Machine

open Sys2Proof.Safety

/-! ### Reads (R63) -/

/-- A step without a host write does not depend on the other host ports, also under `rst`. -/
theorem stepWith_no_write {s : State} {i : Inputs} {sel we : Bool} (hw : (sel && we) = false) (idx : BitVec 8) :
    stepWith { i with hSel := sel, hWe := we, hWidx := idx } s =
      if i.rst = true then resetStep (s.present i) else quietStep (s.present i) := by
  split
  · rename_i hr; simp [stepWith, step, hr, resetStep, resetAct]
  · rename_i hr
    exact step_quiet (s := s.present { i with hSel := sel, hWe := we, hWidx := idx }) ⟨by simpa using hr, hw⟩

theorem stepWith_read (s : State) (i : Inputs) (idx : BitVec 8) :
    stepWith { i with hSel := true, hWe := false, hWidx := idx } s = stepWith { i with hSel := false } s :=
  (stepWith_no_write rfl idx).trans (stepWith_no_write (sel := false) (we := i.hWe) rfl i.hWidx).symm

/-- The words of the register space that are no register and no cell (R41, R63). -/
theorem regRead_unmapped {s : State} {idx : BitVec 8}
    (h : idx.toNat = 0x09 ∨ (0x0D ≤ idx.toNat ∧ idx.toNat ≤ 0x0F) ∨ (0x1A ≤ idx.toNat ∧ idx.toNat ≤ 0x3F) ∨
      (0x40 + s.cfg.rawCap ≤ idx.toNat ∧ idx.toNat ≤ 0x7F) ∨ 0x80 + s.cfg.rawCap ≤ idx.toNat) :
    regRead s idx = 0 := by
  have hcap := s.cfg.rawCap_le
  simp only [regRead]
  iterate 12 rw [if_neg (by omega)]
  rw [if_neg (by rw [isCell_iff]; omega)]

end Sys2Proof.Machine

open Sys2Proof.Machine in
/-- Settles O22: the step with a read is quiet, and the quiet step looks at no host port; the words that read 0 by the
register map. -/
theorem hostReadsHaveNoSideEffect : Obligations.HostReadsHaveNoSideEffect := by
  intro s i
  refine ⟨stepWith_read s i, fun hsel hwe => ?_, fun hno => ?_, rfl, fun idx => regRead_unmapped⟩
  · simp [out, readData, hsel, hwe]
  · rcases hno with hno | hno <;> simp [out, readData, hno]

namespace Sys2Proof.Machine

/-! ### The state machine and the interrupt registers (R241) -/

/-- What a step has written so far, with other interrupt registers in its state. -/
def Act.withIrq (ie ip : BitVec 7) (a : Act) : Act := { a with st := { a.st with ie := ie, ip := ip } }

section
variable (s : State) (i : Inputs) (a : Act) (ie ip : BitVec 7)

theorem complete_withIrq (k : Kind) (e : ErrCode) (c : Byte) :
    complete s k e c (a.withIrq ie ip) = (complete s k e c a).withIrq ie ip := by
  by_cases hr : s.op = .run
  · cases k <;> simp only [complete, hr, if_true] <;> rfl
  · simp only [complete_oneShot hr]; rfl

theorem raiseError_withIrq (e : ErrCode) (c : Byte) :
    raiseError s e c (a.withIrq ie ip) = (raiseError s e c a).withIrq ie ip :=
  complete_withIrq s (report e c a) ie ip .error e c

theorem txDone_withIrq : txDone s (a.withIrq ie ip) = (txDone s a).withIrq ie ip := by
  simp only [txDone, complete_withIrq, apply_ite (Act.withIrq ie ip)]
  rfl

theorem txStep_withIrq (len : Nat) :
    txStep len s i (a.withIrq ie ip) = (txStep len s i a).map (Act.withIrq ie ip) := by
  simp only [txStep, raiseError_withIrq]
  split_ifs
  iterate 3 rfl
  · exact congrArg Except.ok (txDone_withIrq s { a with st := { a.st with txi := s.txi + 1 } } ie ip)
  iterate 2 rfl

theorem drnStep_withIrq : drnStep s i (a.withIrq ie ip) = (drnStep s i a).withIrq ie ip := by
  simp only [drnStep, complete_withIrq]
  split_ifs <;> rfl

theorem rdxFull_withIrq : rdxFull s (a.withIrq ie ip) = (rdxFull s a).withIrq ie ip := by
  simp only [rdxFull, complete_withIrq, raiseError_withIrq]
  split_ifs <;> rfl

theorem rdxStep_withIrq : rdxStep s i (a.withIrq ie ip) = (rdxStep s i a).map (Act.withIrq ie ip) := by
  simp only [rdxStep, rdxFull_withIrq, raiseError_withIrq, complete_withIrq]
  split
  · rfl
  split
  · rfl
  cases i.rxSt with
  | err => rfl
  | eos => simp only; split <;> rfl
  | byte => simp only [countDeadline]; split_ifs <;> rfl
  | none => simp only [countDeadline]; split <;> rfl

theorem decodeInto_withIrq (p : List Byte) :
    decodeInto s p (a.withIrq ie ip) = (decodeInto s p a).withIrq ie ip := by
  by_cases hp : p.length < 40
  · simp only [decodeInto_short hp]
    exact raiseError_withIrq s { a with st := { a.st with rdvalid := false } } ie ip _ _
  · simp only [decodeInto_full (not_lt.1 hp)]
    exact complete_withIrq s { a with st := { a.st with rd := reading s.cfg p, rdvalid := true } } ie ip _ _ _

theorem decStep_withIrq : decStep s (a.withIrq ie ip) = (decStep s a).map (Act.withIrq ie ip) := by
  unfold decStep
  split_ifs
  · exact congrArg Except.ok (decodeInto_withIrq s a ie ip _)
  · rfl
  · exact congrArg Except.ok (complete_withIrq s { a with st := unstuffInto s a.st } ie ip _ _ _)
  · exact congrArg Except.ok (decodeInto_withIrq s { a with st := unstuffInto s a.st } ie ip _)
  · rfl

/-- The step of the state machine neither looks at the interrupt registers of what it writes on nor writes them. -/
theorem fsmStep_withIrq : fsmStep s i (a.withIrq ie ip) = (fsmStep s i a).map (Act.withIrq ie ip) := by
  unfold fsmStep
  split
  · split
    · rfl
    · exact txStep_withIrq s i a ie ip _
    · exact txStep_withIrq s i a ie ip _
    · exact congrArg Except.ok (drnStep_withIrq s i a ie ip)
    · exact rdxStep_withIrq s i a ie ip
    · exact decStep_withIrq s a ie ip
    · unfold settleStep; split_ifs <;> rfl
    · unfold waitpStep; split <;> rfl
    · unfold fwdStep; split_ifs <;> rfl
    · unfold coolStep; split_ifs <;> rfl
    · rfl
    · rfl
  · rfl

/-- The state machine does not look at the interrupt registers of the pre-step state. -/
theorem fsmStep_irq : fsmStep { s with ie := ie, ip := ip } i a = fsmStep s i a := rfl

theorem startAct_irq : startAct { s with ie := ie, ip := ip } = (startAct s).withIrq ie ip := by
  have hadv : State.advance { s with ie := ie, ip := ip } = { s.advance with ie := ie, ip := ip } := by
    cases hs : s.script <;> simp only [State.advance, hs]
  simp only [startAct, hadv]
  rfl

end

/-- The quiet step with other interrupt registers: the bits it sets join the other `IP` (R241, R242). -/
theorem quietStep_irq {s q : State} {ie ip : BitVec 7} (h : quietStep { s with ie := ie, ip := ip } = .next q) :
    ∃ a, fsmStep s s.input (startAct s) = .ok a ∧ q = { a.st with ie := ie, ip := ip ||| a.hw } := by
  obtain ⟨b, hb, rfl⟩ := clockStep_next h
  have hmap : (fsmStep s s.input (startAct s)).map (Act.withIrq ie ip) = .ok b := by
    rw [← fsmStep_withIrq, ← startAct_irq]
    exact hb
  cases ha : fsmStep s s.input (startAct s) with
  | error f => rw [ha] at hmap; cases hmap
  | ok a =>
    rw [ha] at hmap
    cases hmap
    exact ⟨a, rfl, finish_zero _ _⟩

end Sys2Proof.Machine

open Sys2Proof.Machine in
/-- Settles O29: the host's part of such a step is its clear mask, and the state machine sets the same bits whatever `IP`
holds. -/
theorem interruptClearLosesToHardwareSet : Obligations.InterruptClearLosesToHardwareSet := by
  intro s q w hw hq
  obtain ⟨a, ha, rfl⟩ := quietStep_irq (ie := s.ie) hq
  have hie : a.st.ie = s.ie := by simpa using (fsmStep_fixed ha).ie
  rw [step_write hw (by decide), if_pos (by decide), hostStore_ignored (by rw [idleGated_iff]; simp) (by decide),
    clockStep_ok ha]
  simp [Act.finish, composeIp, hie]

/-! The encoding family (30_encoding.md): the command word and its decoder, and what a command does to the step it is written
in. -/

namespace Sys2Proof

/-! ### The command word by its fields (R90, R91) -/

/-- `op` of the operation's word (R92). -/
def Instr.opcode : Instr → BitVec 4
  | .txstart => 1 | .txreq => 2 | .drain => 3 | .readx _ => 4 | .unstuff => 5 | .decode _ => 6 | .sample => 7
  | .run => 8 | .stop => 9

/-- `n` of the operation's word (R91). -/
def Instr.operand : Instr → Byte
  | .readx n | .decode n => n
  | .txstart | .txreq | .drain | .unstuff | .sample | .run | .stop => 0

theorem encode_eq_formatC (i : Instr) : encode i = formatC i.opcode i.operand := by cases i <;> rfl

theorem formatC_fields (op : BitVec 4) (n : Byte) :
    opField (formatC op n) = op ∧ lowZeros (formatC op n) = 0 ∧ nField (formatC op n) = n ∧
      highZeros (formatC op n) = 0 := by
  unfold opField lowZeros nField highZeros formatC
  refine ⟨?_, ?_, ?_, ?_⟩ <;> repeat refine (BitVec.extractLsb'_append_eq_of_le (by omega)).trans ?_
  on_goal 4 => exact BitVec.extractLsb'_eq_self
  all_goals exact BitVec.extractLsb'_append_eq_right

theorem toNat_opField (w : Word) : (opField w).toNat = w.toNat % 16 := by
  simp [opField]
theorem toNat_lowZeros (w : Word) : (lowZeros w).toNat = w.toNat / 16 % 16 := by
  simp [lowZeros, Nat.shiftRight_eq_div_pow]
theorem toNat_nField (w : Word) : (nField w).toNat = w.toNat / 256 % 256 := by
  simp [nField, Nat.shiftRight_eq_div_pow]
theorem toNat_highZeros (w : Word) : (highZeros w).toNat = w.toNat / 65536 % 65536 := by
  simp [highZeros, Nat.shiftRight_eq_div_pow]

/-- A word is its four fields. -/
theorem word_ext {v w : Word} (hop : opField v = opField w) (hlow : lowZeros v = lowZeros w) (hn : nField v = nField w)
    (hhigh : highZeros v = highZeros w) : v = w := by
  simp only [BitVec.toNat_eq, toNat_opField, toNat_lowZeros, toNat_nField, toNat_highZeros] at *
  omega

/-- `w` encodes `i` when it has the form `C` with the fields of `i`. -/
theorem encode_eq_iff {i : Instr} {w : Word} :
    encode i = w ↔ opField w = i.opcode ∧ lowZeros w = 0 ∧ nField w = i.operand ∧ highZeros w = 0 := by
  obtain ⟨hop, hlow, hn, hhigh⟩ := formatC_fields i.opcode i.operand
  rw [encode_eq_formatC]
  constructor
  · rintro rfl; exact ⟨hop, hlow, hn, hhigh⟩
  · rintro ⟨h1, h2, h3, h4⟩
    exact word_ext (hop.trans h1.symm) (hlow.trans h2.symm) (hn.trans h3.symm) (hhigh.trans h4.symm)

/-! ### The decoder (R93, R94) -/

theorem noOperand_ok {n : Byte} {i j : Instr} (h : noOperand n j = .ok i) : n = 0 ∧ i = j := by
  unfold noOperand at h
  split at h
  · cases h; exact ⟨‹_›, rfl⟩
  · cases h

/-- The decoder accepts a word as `i` exactly when `i` is well formed and the word is its encoding. -/
theorem decode_ok_iff {cap : Nat} {w : Word} {i : Instr} :
    decode cap w = .ok i ↔ i.wellFormed cap = true ∧ encode i = w := by
  rw [encode_eq_iff]
  constructor
  · intro h
    unfold decode at h
    split at h
    · rename_i hz
      have plain : ∀ j : Instr, j.wellFormed cap = true → j.operand = 0 → opField w = j.opcode →
          noOperand (nField w) j = .ok i →
          i.wellFormed cap = true ∧ opField w = i.opcode ∧ lowZeros w = 0 ∧ nField w = i.operand ∧ highZeros w = 0 := by
        intro j hj h0 hop hno
        obtain ⟨hn, rfl⟩ := noOperand_ok hno
        exact ⟨hj, hop, hz.1, hn.trans h0.symm, hz.2⟩
      split_ifs at h with h1 h2 h3 h4 hcap h5 h6 h7 h8 h9
      · exact plain .txstart rfl rfl h1 h
      · exact plain .txreq rfl rfl h2 h
      · exact plain .drain rfl rfl h3 h
      · cases h; exact ⟨decide_eq_true hcap, h4, hz.1, rfl, hz.2⟩
      · exact plain .unstuff rfl rfl h5 h
      · cases h; exact ⟨rfl, h6, hz.1, rfl, hz.2⟩
      · exact plain .sample rfl rfl h7 h
      · exact plain .run rfl rfl h8 h
      · exact plain .stop rfl rfl h9 h
    · cases h
  · rintro ⟨hwf, hop, hlow, hn, hhigh⟩
    unfold decode
    rw [if_pos ⟨hlow, hhigh⟩, hop, hn]
    cases i with
    | readx n => exact if_pos (of_decide_eq_true hwf)
    | _ => rfl

/-- Which words the decoder accepts, by their fields (R93). -/
theorem decode_ok_fields {cap : Nat} {w : Word} : (∃ i, decode cap w = .ok i) ↔
    lowZeros w = 0 ∧ highZeros w = 0 ∧ 1 ≤ (opField w).toNat ∧ (opField w).toNat ≤ 9 ∧
      ((opField w).toNat ≠ 4 → (opField w).toNat ≠ 6 → nField w = 0) ∧
      ((opField w).toNat = 4 → (nField w).toNat ≤ cap) := by
  simp only [decode_ok_iff, encode_eq_iff]
  constructor
  · rintro ⟨i, hwf, hop, hlow, hn, hhigh⟩
    rw [hop, hn]
    refine ⟨hlow, hhigh, ?_⟩
    cases i with
    | readx n => simpa [Instr.opcode, Instr.operand, Instr.wellFormed] using hwf
    | _ => simp [Instr.opcode, Instr.operand]
  · rintro ⟨hlow, hhigh, hge, hle, hzero, hcap⟩
    have word : ∀ i : Instr, i.wellFormed cap = true → (opField w).toNat = i.opcode.toNat → nField w = i.operand →
        ∃ i : Instr, i.wellFormed cap = true ∧ opField w = i.opcode ∧ lowZeros w = 0 ∧ nField w = i.operand ∧
          highZeros w = 0 := fun i hwf hop hn => ⟨i, hwf, BitVec.eq_of_toNat_eq hop, hlow, hn, hhigh⟩
    interval_cases (opField w).toNat
    · exact word .txstart rfl rfl (hzero (by decide) (by decide))
    · exact word .txreq rfl rfl (hzero (by decide) (by decide))
    · exact word .drain rfl rfl (hzero (by decide) (by decide))
    · exact word (.readx (nField w)) (decide_eq_true (hcap rfl)) rfl rfl
    · exact word .unstuff rfl rfl (hzero (by decide) (by decide))
    · exact word (.decode (nField w)) rfl rfl rfl
    · exact word .sample rfl rfl (hzero (by decide) (by decide))
    · exact word .run rfl rfl (hzero (by decide) (by decide))
    · exact word .stop rfl rfl (hzero (by decide) (by decide))

/-- A word is reserved when it stands for no operation (R94). -/
theorem decode_error_iff {cap : Nat} {w : Word} :
    (∃ e, decode cap w = .error e) ↔ ¬ ∃ i, decode cap w = .ok i := by
  cases decode cap w <;> simp

end Sys2Proof

open Sys2Proof in
/-- Settles O15: one direction of what the decoder accepts. -/
theorem encodeThenDecodeIsIdentity : Obligations.EncodeThenDecodeIsIdentity :=
  fun _ _ hwf => decode_ok_iff.2 ⟨hwf, rfl⟩

/-- Settles O14: by evaluating the decoder. -/
theorem commandWordsDecodeAsListed : Obligations.CommandWordsDecodeAsListed := by
  unfold Obligations.CommandWordsDecodeAsListed
  decide

open Sys2Proof in
/-- Settles O16: the other direction of what the decoder accepts. -/
theorem decodeThenEncodeIsIdentity : Obligations.DecodeThenEncodeIsIdentity :=
  fun _ _ _ => decode_ok_iff.1

open Sys2Proof in
/-- Settles O17: the fields of the words the decoder accepts; the list for 64 is arithmetic on these fields. -/
theorem wellFormedWordsAreExactlyThese : Obligations.WellFormedWordsAreExactlyThese := by
  refine ⟨fun _ _ => decode_ok_fields, fun w => decode_ok_fields.trans ?_⟩
  simp only [BitVec.toNat_eq, toNat_opField, toNat_lowZeros, toNat_nField, toNat_highZeros, BitVec.ofNat_eq_ofNat,
    BitVec.toNat_ofNat, Nat.zero_mod, List.mem_cons, List.not_mem_nil, or_false]
  constructor
  · rintro ⟨hlow, hhigh, hge, hle, hzero, hcap⟩
    rcases eq_or_ne (w.toNat % 16) 4 with h4 | h4
    · exact .inr (.inl ⟨w.toNat / 256 % 256, hcap h4, by omega⟩)
    · rcases eq_or_ne (w.toNat % 16) 6 with h6 | h6
      · exact .inr (.inr ⟨w.toNat / 256 % 256, by omega, by omega⟩)
      · exact .inl (by have := hzero h4 h6; omega)
  · rintro (h | ⟨n, hn, h⟩ | ⟨n, hn, h⟩) <;> omega

open Sys2Proof Sys2Proof.Machine in
/-- Settles O18: the reserved words are those the decoder does not accept, and the host's part of such a step is the rejection. -/
theorem reservedWordsAreRejected : Obligations.ReservedWordsAreRejected := by
  refine ⟨fun cap w => ?_, fun s t w hw ⟨e, he⟩ hq => ?_⟩
  · rw [decode_error_iff, decode_ok_fields]
    change _ ↔ ((opField w).toNat = 0 ∨ 10 ≤ (opField w).toNat ∨ lowZeros w ≠ 0 ∨ highZeros w ≠ 0 ∨
      ((opField w).toNat ≠ 4 ∧ (opField w).toNat ≠ 6 ∧ nField w ≠ 0) ∨
      ((opField w).toNat = 4 ∧ cap < (nField w).toNat))
    simp only [BitVec.toNat_eq, ne_eq]
    omega
  · rw [step_reserved hw he]
    exact rejectStep_of_quiet hq

namespace Sys2Proof.Machine

open Sys2Proof.Safety

/-! ### Commands of opcodes 1 to 8 (R95, R97) -/

/-- In `IDLE` the step of the state machine writes nothing, and the command is accepted. -/
theorem commandStep_idle {s : State} {eff : State → State} (hf : s.fsm = .idle)
    (hip : (eff (ticked s)).ip = s.ip) : commandStep s eff = .next (eff (ticked s)) := by
  have hstep : fsmStep s s.input (startAct s) = .ok (startAct s) := by simp [fsmStep, hf, legalPair]
  rw [commandStep, if_pos hf, clockStep_ok hstep]
  exact congrArg _ (finish_of_unset hip)

/-- Outside `IDLE` the command is rejected. -/
theorem commandStep_busy {s t : State} {eff : State → State} (hf : s.fsm ≠ .idle) (hq : quietStep s = .next t) :
    commandStep s eff = .next { t with ip := t.ip ||| ipRej } := by
  rw [commandStep, if_neg hf]
  exact rejectStep_of_quiet hq

/-- The accept sequence of an operation with opcode 1 to 8 (R97); `STOP` has another rule (R211). -/
def acceptSequence (s : State) : Instr → State → State
  | .txstart, t => { accept .txstart 0 .txs t with txi := 0 }
  | .txreq, t => { accept .txreq 0 .txr t with txi := 0 }
  | .drain, t => accept .drain 0 .drn t
  | .readx n, t => startRead s (accept .readx n .rdx t)
  | .unstuff, t => accept .unstuff 0 .dec t
  | .decode n, t => accept .decode n .dec t
  | .sample, t => { accept .sample 0 .drn t with rawcnt := 0, unscnt := 0, rdvalid := false }
  | .run, t => { accept .run 0 .txs t with txi := 0 }
  | .stop, t => t

theorem exec_eq_commandStep {s : State} {i : Instr} (hwf : i.wellFormed s.cfg.rawCap = true) (hi : i ≠ .stop) :
    exec i s = commandStep s (acceptSequence s i) := by
  cases i with
  | stop => contradiction
  | readx n => exact if_pos (of_decide_eq_true hwf)
  | _ => rfl

/-- Acceptance sets no pending bit (R97). -/
@[simp] theorem acceptSequence_ip (s : State) (i : Instr) (t : State) : (acceptSequence s i t).ip = t.ip := by
  cases i <;> rfl

/-- An accepted operation is in progress: its opcode is in `OP`, and `FSM` has left `IDLE` (R97). -/
theorem acceptSequence_busy (s : State) {i : Instr} (hi : i ≠ .stop) (t : State) :
    (acceptSequence s i t).fsm ≠ .idle ∧ (acceptSequence s i t).op.code = i.opcode := by
  cases i with
  | stop => contradiction
  | _ => exact ⟨nofun, rfl⟩

end Sys2Proof.Machine

open Sys2Proof Sys2Proof.Machine in
/-- Settles O19: in `IDLE` with the ticker off a step leaves its accept sequence on the state with the event cleared. -/
theorem acceptSequencesStartTheOperation : Obligations.AcceptSequencesStartTheOperation := by
  intro s hf ht t
  have accepted : ∀ i : Instr, i.wellFormed s.cfg.rawCap = true → i ≠ .stop →
      exec i s = .next (acceptSequence s i { s.advance with ev := { s.ev with valid := false } }) := fun i hwf hi => by
    rw [exec_eq_commandStep hwf hi, commandStep_idle hf (by simp), ticked_off ht (by simp [hf])]
  exact ⟨accepted .txstart rfl nofun, accepted .txreq rfl nofun, accepted .drain rfl nofun,
    fun n hn => accepted (.readx n) (decide_eq_true hn) nofun, accepted .unstuff rfl nofun,
    fun n => accepted (.decode n) rfl nofun, accepted .sample rfl nofun, accepted .run rfl nofun⟩

open Sys2Proof Sys2Proof.Machine in
/-- Settles O21: in `IDLE` the accept sequence is carried out, elsewhere the step is the rejected one. -/
theorem commandsAreAcceptedOrRejected : Obligations.CommandsAreAcceptedOrRejected := by
  intro s i hwf
  refine ⟨fun hi hf => ?_, fun hi hf t hq => ?_, ?_, ?_⟩
  · obtain ⟨hfsm, hop⟩ := acceptSequence_busy s hi (Safety.ticked s)
    have hstep := commandStep_idle hf (eff := acceptSequence s i) (by simp)
    exact ⟨_, (exec_eq_commandStep hwf hi).trans hstep, hfsm, by simp, hop.trans (encode_eq_iff.1 rfl).1.symm⟩
  · exact (exec_eq_commandStep hwf hi).trans (commandStep_busy hf hq)
  · rintro rfl hop
    exact ⟨_, if_pos hop, rfl, rfl, composeIp_set s.ip ipExited⟩
  · rintro rfl hop t hq
    exact (if_neg hop).trans (rejectStep_of_quiet hq)

namespace Sys2Proof.Machine

open Sys2Proof.Safety

/-! ### One operation at a time (R95, R96) -/

/-- The operation in progress stays, or it ends, in `IDLE` or `EXITED`. -/
def KeepsOrEndsOp (t u : State) : Prop := u.op = t.op ∨ (u.op = .none ∧ (u.fsm = .idle ∨ u.fsm = .exited))

theorem complete_op (s : State) (k : Kind) (e : ErrCode) (c : Byte) (a : Act) :
    KeepsOrEndsOp a.st (complete s k e c a).st := by
  by_cases hr : s.op = .run
  · left; cases k <;> simp [complete, hr]
  · right; simp [complete_oneShot hr]

theorem decodeInto_op (s : State) (p : List Byte) (a : Act) : KeepsOrEndsOp a.st (decodeInto s p a).st := by
  by_cases hp : p.length < 40
  · rw [decodeInto_short hp]
    exact complete_op s _ _ _ (report _ _ { a with st := { a.st with rdvalid := false } })
  · rw [decodeInto_full (by omega)]
    exact complete_op s _ _ _ { a with st := { a.st with rd := reading s.cfg p, rdvalid := true } }

theorem FsmEffect.op {s : State} {i : Inputs} {a b : Act} (hb : FsmEffect s i a b) : KeepsOrEndsOp a.st b.st := by
  cases hb with
  | frameSent => exact complete_op s _ _ _ { a with st := { a.st with txi := s.txi + 1 } }
  | completed => exact complete_op s _ _ _ a
  | raised => exact complete_op s _ _ _ (report _ _ a)
  | startFailed => right; simp [fatal_eq]
  | unstuffed => exact complete_op s _ _ _ { a with st := unstuffInto s a.st }
  | decoded => exact decodeInto_op s _ a
  | cycleDecoded => exact decodeInto_op s _ { a with st := unstuffInto s a.st }
  | _ => left; simp [liveStep, report]

/-- With no operation in progress only `IDLE` and `EXITED` have a step (R22, R23). -/
theorem legalPair_none {f : Fsm} : legalPair f .none = true ↔ f = .idle ∨ f = .exited := by
  cases f <;> decide

/-- A busy state whose state machine has a step has an operation in progress (R22, R23). -/
theorem op_of_busy {s : State} {i : Inputs} {a b : Act} (hidle : s.fsm ≠ .idle) (hexited : s.fsm ≠ .exited)
    (h : fsmStep s i a = .ok b) : s.op ≠ .none := by
  intro hop
  have hpair : ¬ legalPair s.fsm s.op = true := by rw [hop, legalPair_none]; exact not_or_intro hidle hexited
  rw [fsmStep, if_neg hpair] at h
  cases h

end Sys2Proof.Machine

open Sys2Proof.Machine in
/-- Settles O7: an accepted `STOP` ends in `EXITED`; in any other step the state machine keeps or ends the operation, and outside
`IDLE` the host's part writes neither `OP` nor `FSM`. -/
theorem oneOperationAtATime : Obligations.OneOperationAtATime := by
  intro s t hbusy hrst h
  obtain ⟨hidle, hexited⟩ := of_decide_eq_true hbusy
  rcases step_next h with ⟨hr, -⟩ | ⟨-, -, rfl⟩ | ⟨-, w, host, a, hp, ha, rfl⟩
  · simp [hrst] at hr
  · exact ⟨.inr rfl, fun _ => .inr rfl⟩
  · obtain ⟨ie, hst⟩ := hp.busy_st hidle a
    have hop := op_of_busy hidle hexited ha
    simp only [Act.finish_op, Act.finish_fsm, hst]
    rcases (fsmStep_effect ha).op with hkeep | ⟨hnone, hend⟩
    · rw [startAct_op] at hkeep
      exact ⟨.inl hkeep, fun hn => absurd (hkeep.symm.trans hn) hop⟩
    · exact ⟨.inr hnone, fun _ => hend⟩

namespace Sys2Proof.Machine

open Sys2Proof.Safety

/-! ### The `DEC` step of a cycle (R107, R185) -/

/-- Decoding leaves the buffers, and writes `RD` when it succeeds and `RDVALID` by whether it does (R139). -/
theorem decodeInto_reading (s : State) (p : List Byte) (a : Act) :
    (decodeInto s p a).st.mem = a.st.mem ∧ (decodeInto s p a).st.unscnt = a.st.unscnt ∧
      (decodeInto s p a).st.rd = (decodePayload s.cfg p).getD a.st.rd ∧
      (decodeInto s p a).st.rdvalid = (decodePayload s.cfg p).isSome := by
  by_cases hp : p.length < 40
  · obtain ⟨_, _, _, h⟩ := complete_frame s .error .malformedPayload (BitVec.ofNat 8 p.length)
      (report .malformedPayload (BitVec.ofNat 8 p.length) { a with st := { a.st with rdvalid := false } })
    rw [decodeInto_short hp, raiseError, h, decodePayload_none hp]
    exact ⟨rfl, rfl, rfl, rfl⟩
  · obtain ⟨_, _, _, h⟩ := complete_frame s .reading .none 40
      { a with st := { a.st with rd := reading s.cfg p, rdvalid := true } }
    rw [decodeInto_full (by omega), h, decodePayload_some (by omega)]
    exact ⟨rfl, rfl, rfl, rfl⟩

/-- A step of `DEC` on quiet inputs is that of its state alone. -/
theorem decStep_of_stepWith {s t : State} (hf : s.fsm = .dec) (h : stepWith {} s = .next t) :
    ∃ a, decStep s (startAct (s.present {})) = .ok a ∧ t = Act.finish s 0 a := by
  have hq : quietStep (s.present {}) = .next t := (step_quiet ⟨rfl, rfl⟩).symm.trans h
  obtain ⟨a, ha, rfl⟩ := clockStep_next hq
  refine ⟨a, ?_, rfl⟩
  simp only [fsmStep, State.present_fsm, hf] at ha
  split at ha
  · exact ha
  · cases ha

/-- What the `DEC` step of `UNSTUFF` leaves in the buffers and the reading (R130). -/
theorem unstuff_step {s t : State} (hf : s.fsm = .dec) (hop : s.op = .unstuff) (h : stepWith {} s = .next t) :
    t.cfg = s.cfg ∧ t.mem = s.mem.writeBytes unsBase (unstuff s.rawFrame) ∧
      t.unscnt = BitVec.ofNat 8 (unstuff s.rawFrame).length ∧ t.rd = s.rd := by
  obtain ⟨a, ha, rfl⟩ := decStep_of_stepWith hf h
  simp only [decStep, hop, reduceCtorEq, if_false, if_true] at ha
  split at ha
  · cases ha
    simp [decUnstuff, complete_oneShot (show s.op ≠ .run by simp [hop])]
  · cases ha

/-- What the `DEC` step of `DECODE` leaves in the buffers and the reading (R139). -/
theorem decode_step {s t : State} (hf : s.fsm = .dec) (hop : s.op = .decode) (h : stepWith {} s = .next t) :
    t.mem = s.mem ∧ t.unscnt = s.unscnt ∧ t.rd = (decodePayload s.cfg (s.payload s.arg.toNat)).getD s.rd ∧
      t.rdvalid = (decodePayload s.cfg (s.payload s.arg.toNat)).isSome := by
  obtain ⟨a, ha, rfl⟩ := decStep_of_stepWith hf h
  simp only [decStep, hop, if_true] at ha
  split at ha
  · cases ha
    exact decodeInto_reading s _ _
  · cases ha

/-- What the `DEC` step of a cycle leaves in the buffers and the reading (R185). -/
theorem cycle_step {s t : State} (hf : s.fsm = .dec) (hop : s.op = .sample ∨ s.op = .run)
    (h : stepWith {} s = .next t) :
    t.mem = s.mem.writeBytes unsBase (unstuff s.rawFrame) ∧
      t.unscnt = BitVec.ofNat 8 (unstuff s.rawFrame).length ∧
      t.rd = (decodePayload s.cfg ((unstuff s.rawFrame).drop 5)).getD s.rd ∧
      t.rdvalid = (decodePayload s.cfg ((unstuff s.rawFrame).drop 5)).isSome := by
  obtain ⟨a, ha, rfl⟩ := decStep_of_stepWith hf h
  unfold decStep at ha
  rw [if_neg (by rcases hop with hop | hop <;> simp [hop])] at ha
  split at ha
  · rw [if_neg (by rcases hop with hop | hop <;> simp [hop])] at ha
    cases ha
    exact decodeInto_reading s _ _
  · cases ha

/-- The payload of a state whose `UNS` holds an unstuffed frame (R27). -/
theorem payload_of_writeBytes {m : Memory} (hm : m.wf) {l : List Byte} (hl : l.length < 256) {t : State}
    (hmem : t.mem = m.writeBytes unsBase l) (hcnt : t.unscnt = BitVec.ofNat 8 l.length) (off : Nat) :
    t.payload off = l.drop off := by
  have hlen : t.unscnt.toNat = l.length := by rw [hcnt, BitVec.toNat_ofNat]; omega
  rw [State.payload, ← Memory.readBytes_drop, hmem, hlen, Memory.readBytes_writeBytes hm]

end Sys2Proof.Machine

open Sys2Proof.Machine in
/-- Settles O45: what `UNSTUFF` leaves in `UNS` is the payload that `DECODE 5` and the cycle decode. -/
theorem cycleDecodeEqualsUnstuffThenDecode : Obligations.CycleDecodeEqualsUnstuffThenDecode := by
  intro s t v c hinv hf hop ht hv hc
  obtain ⟨hcfg, hmem, hcnt, hrd⟩ := unstuff_step hf hop ht
  obtain ⟨hvmem, hvcnt, hvrd, hvval⟩ := decode_step rfl rfl hv
  obtain ⟨hcmem, hccnt, hcrd, hcval⟩ := cycle_step (s := { s with op := .sample }) hf (.inl rfl) hc
  have hlen : (unstuff s.rawFrame).length < 256 := (unstuff_rawFrame_length s).trans_lt s.rawcnt.isLt
  have hpay : State.payload { t with fsm := .dec, op := .decode, arg := 5 } 5 = (unstuff s.rawFrame).drop 5 :=
    payload_of_writeBytes hinv.buffers.mem_wf hlen hmem hcnt 5
  have hdec : decodePayload t.cfg (State.payload { t with fsm := .dec, op := .decode, arg := 5 } 5) =
      decodePayload s.cfg ((unstuff s.rawFrame).drop 5) := by rw [hpay, hcfg]
  refine ⟨hvmem.trans (hmem.trans hcmem.symm), hvcnt.trans (hcnt.trans hccnt.symm), ?_, ?_⟩
  · exact hvrd.trans ((congr (congrArg _ hdec) hrd).trans hcrd.symm)
  · exact hvval.trans ((congrArg _ hdec).trans hcval.symm)

/-! The frame codec family (40_frame_codec.md): byte stuffing, the fields of a payload, `ROUND2`, and the steps that transmit,
unstuff and decode. -/

namespace Sys2Proof.Machine

/-! ### Byte stuffing (R125, R128) -/

/-- `unstuff` undoes one byte of `stuff`, whatever follows (R128). -/
theorem unstuff_stuffByte (b : Byte) (t : List Byte) : unstuff (stuffByte b ++ t) = b :: unstuff t := by
  unfold stuffByte
  split
  · subst b; exact unstuff_pair rfl t
  split
  · subst b; exact unstuff_pair rfl t
  split
  · subst b; exact unstuff_pair rfl t
  split
  · subst b; exact unstuff_pair rfl t
  · rename_i hb _ _; exact unstuff_cons_ne hb t

theorem unstuff_stuff (p : List Byte) : unstuff (stuff p) = p := by
  induction p with
  | nil => rfl
  | cons b t ih => rw [stuff, unstuff_stuffByte, ih]

/-- A part without the byte 0x7D is copied, and the pass goes on after it (R125). -/
theorem unstuff_append_clean {p : List Byte} (hp : (0x7D : Byte) ∉ p) (t : List Byte) :
    unstuff (p ++ t) = p ++ unstuff t := by
  induction p with
  | nil => rfl
  | cons b p ih =>
    obtain ⟨hb, hp⟩ := not_or.1 (mt List.mem_cons.2 hp)
    rw [List.cons_append, unstuff_cons_ne (Ne.symm hb), ih hp, List.cons_append]

/-- A second byte that R101 does not list stands for nothing. -/
theorem esc_eq_none {c : Byte} (h1 : c ≠ 0x5E#8) (h2 : c ≠ 0x5D#8) (h3 : c ≠ 0x31#8) (h4 : c ≠ 0x33#8) :
    esc c = none := by
  simp [esc, h1, h2, h3, h4]

/-! ### The fields of a payload (R131, R133) -/

theorem toNat_append_eq {m n : Nat} (x : BitVec m) (y : BitVec n) : (x ++ y).toNat = x.toNat * 2 ^ n + y.toNat := by
  rw [BitVec.toNat_append, ← Nat.shiftLeft_add_eq_or_of_lt y.isLt, Nat.shiftLeft_eq]

theorem reading_getElem (cfg : Config.Params) (p : List Byte) :
    ∀ i : Fin 10, (reading cfg p)[i] = round2 cfg (field p i)
  | 0 | 1 | 2 | 3 | 4 | 5 | 6 | 7 | 8 | 9 => rfl

/-- Only the first 40 bytes matter (R131). -/
theorem field_take (p : List Byte) (i : Fin 10) : field (p.take 40) i = field p i := by
  have byte : ∀ k, k < 40 → (p.take 40).getD k 0 = p.getD k 0 := fun k hk => by
    rw [List.getD_eq_getElem?_getD, List.getD_eq_getElem?_getD, List.getElem?_take_of_lt hk]
  simp only [field]
  rw [byte _ (by omega), byte _ (by omega), byte _ (by omega), byte _ (by omega)]

theorem reading_take (cfg : Config.Params) (p : List Byte) : reading cfg (p.take 40) = reading cfg p := by
  refine Vector.ext fun i hi => ?_
  have h := reading_getElem cfg (p.take 40) ⟨i, hi⟩
  rw [field_take, ← reading_getElem] at h
  exact h

end Sys2Proof.Machine

open Sys2Proof.Machine in
/-- Settles O34, by induction on the list: each byte of `stuff` is undone whatever follows it. -/
theorem unstuffUndoesStuff : Obligations.UnstuffUndoesStuff :=
  ⟨fun _ _ => ⟨rfl, rfl⟩, unstuff_stuff, [0x7D], by decide⟩

open Sys2Proof.Machine in
/-- Settles O35: a clean part is copied, and what follows it is a pair, a lone 0x7D or the end. -/
theorem unstuffIsASinglePass : Obligations.UnstuffIsASinglePass := by
  refine ⟨fun l hl => ?_, unstuff_length_le, fun p t hp => ?_, fun p t c hp h1 h2 h3 h4 => ?_, fun p hp => ?_⟩
  · simpa [unstuff] using unstuff_append_clean hl []
  · simp only [unstuff_append_clean hp]
    exact ⟨congrArg _ (unstuff_pair rfl t), congrArg _ (unstuff_pair rfl t), congrArg _ (unstuff_pair rfl t),
      congrArg _ (unstuff_pair rfl t)⟩
  · rw [unstuff_append_clean hp]
    exact congrArg _ (unstuff_lone (esc_eq_none h1 h2 h3 h4) t)
  · exact unstuff_append_clean hp [0x7D]

open Sys2Proof.Machine in
/-- Settles O36: each append shifts the bytes before it by eight bits. -/
theorem fieldsAreBigEndian : Obligations.FieldsAreBigEndian := by
  intro b0 b1 b2 b3
  simp only [be32, toNat_append_eq]
  omega

open Sys2Proof.Machine in
/-- Settles O37: `decode` succeeds exactly with 40 bytes or more, and its fields lie within the first 40. -/
theorem decodeTakesTenFieldsOrNone : Obligations.DecodeTakesTenFieldsOrNone := by
  refine fun cfg p => ⟨decodePayload_none, fun hp => ⟨?_, _, decodePayload_some hp, reading_getElem cfg p⟩⟩
  rw [decodePayload_some hp, decodePayload_some (by simp [hp]), reading_take]

namespace Sys2Proof.Machine

open Sys2Proof.Safety

variable {s : State} {t : State}

/-! ### The whole quiet step, from the step of the state machine -/

/-- A quiet step leaves what the state machine leaves, its interrupt bits joined to `IP` (R242). -/
theorem step_quiet_ok (hq : HostQuiet s) {a : Act} (h : fsmStep s s.input ⟨ticked s, 0⟩ = .ok a) :
    step s = .next (Act.finish s 0 a) :=
  (step_quiet hq).trans (clockStep_ok h 0 id)

/-- A state machine that writes no `IP` bit leaves its state as the step's result. -/
theorem step_quiet_unset (hq : HostQuiet s) (h : fsmStep s s.input ⟨ticked s, 0⟩ = .ok ⟨t, 0⟩) (hip : t.ip = s.ip) :
    step s = .next t := by
  rw [step_quiet_ok hq h, finish_of_unset hip]

/-- The end of a one-shot operation, as the statements write it (R235). -/
theorem finish_completeOk (h : s.op ≠ .run) (c : Byte) (t : State) :
    Act.finish s 0 (complete s .ok .none c ⟨t, 0⟩) = finishedOk s c t := by
  rw [finish_zero]
  simp [complete_oneShot h, finishedOk, completionBits, ipDone]

/-- A recoverable error, as the statements write it (R236). -/
theorem finish_raiseError (ht : t.op = s.op) (e : ErrCode) (c : Byte) :
    Act.finish s 0 (raiseError s e c ⟨t, 0⟩) = raised s e c t := by
  rw [finish_zero]
  by_cases hr : s.op = .run
  · simp [raiseError_run hr, raised, hr, ht, completionBits, ipError, ipDone]
  · simp [raiseError_oneShot hr, raised, hr, completionBits, ipError, ipDone]

/-- A successful decode, as the statements write it (R139, R185). -/
theorem finish_completeReading (ht : t.op = s.op) (r : Vector Word 10) :
    Act.finish s 0 (complete s .reading .none 40 ⟨{ t with rd := r, rdvalid := true }, 0⟩) = readingTaken s r t := by
  rw [finish_zero]
  by_cases hr : s.op = .run
  · simp [complete_run_reading hr, readingTaken, hr, ht, completionBits, ipReading, ipDone]
  · simp [complete_oneShot hr, readingTaken, hr, completionBits, ipReading, ipDone]

/-- The fatal sequence, written out (R238). -/
theorem finish_fatal (e : ErrCode) (c : Byte) (t : State) :
    Act.finish s 0 (fatal e c ⟨t, 0⟩) =
      { t with result := ⟨.error, e, c⟩, errinfo := ⟨e, c⟩, ev := ⟨true, e, c⟩, ip := s.ip ||| 0x29, fsm := .exited,
               exitcode := true, op := .none, tken := false } := by
  rw [finish_zero]
  simp [fatal_eq, ipError, ipDone, ipExited]

/-- What decoding a payload leaves when fewer than 40 bytes are there (R139). -/
theorem finish_decodeInto_short {p : List Byte} (ht : t.op = s.op) (hp : p.length < 40) :
    Act.finish s 0 (decodeInto s p ⟨t, 0⟩) =
      raised s .malformedPayload (BitVec.ofNat 8 p.length) { t with rdvalid := false } := by
  rw [decodeInto_short hp]
  exact finish_raiseError (t := { t with rdvalid := false }) ht _ _

/-- What decoding a payload leaves when it succeeds (R139). -/
theorem finish_decodeInto_some {p : List Byte} {r : Vector Word 10} (ht : t.op = s.op)
    (hr : decodePayload s.cfg p = some r) : Act.finish s 0 (decodeInto s p ⟨t, 0⟩) = readingTaken s r t := by
  simp only [decodeInto, hr]
  exact finish_completeReading ht r

/-! ### The steps of `DEC` (R130, R139) -/

theorem step_unstuff (hq : HostQuiet s) (hf : s.fsm = .dec) (hop : s.op = .unstuff)
    (hr : s.rawcnt.toNat ≤ s.cfg.rawCap) :
    step s = .next (finishedOk s (BitVec.ofNat 8 (unstuff s.rawFrame).length) (unstuffInto s (ticked s))) := by
  have hstep : fsmStep s s.input ⟨ticked s, 0⟩ = .ok (decUnstuff s ⟨ticked s, 0⟩) := by
    simp [fsmStep, hf, hop, legalPair, decStep, hr]
  rw [step_quiet_ok hq hstep, decUnstuff, finish_completeOk (by simp [hop])]

theorem step_decode (hq : HostQuiet s) (hf : s.fsm = .dec) (hop : s.op = .decode)
    (hu : s.unscnt.toNat ≤ s.cfg.rawCap) :
    step s = .next (Act.finish s 0 (decodeInto s (s.payload s.arg.toNat) ⟨ticked s, 0⟩)) :=
  step_quiet_ok hq (by simp [fsmStep, hf, hop, legalPair, decStep, hu, decDecode])

/-- After storing it, `UNS` holds the unstuffed frame (R130). -/
theorem unstuffInto_payload (hm : s.mem.wf) : (unstuffInto s (ticked s)).payload 0 = unstuff s.rawFrame :=
  payload_of_writeBytes hm ((unstuff_rawFrame_length s).trans_lt s.rawcnt.isLt) (by simp) rfl 0

/-- Storing the unstuffed frame leaves `RAW` as it was: its cells lie below those of `UNS` (R65, R130). -/
theorem unstuffInto_rawFrame (hm : s.mem.wf) (hr : s.rawcnt.toNat ≤ s.cfg.rawCap) :
    (unstuffInto s (ticked s)).rawFrame = s.rawFrame := by
  have hcap := s.cfg.rawCap_le
  simp only [State.rawFrame, unstuffInto_mem, unstuffInto_rawcnt, startAct_mem, startAct_rawcnt]
  refine Memory.readBytes_congr fun k hk => ?_
  rw [Memory.read_writeBytes hm, if_neg (by simp only [rawBase, unsBase]; omega)]

/-! ### The steps of `TXS` and `TXR` (R124) -/

/-- The byte presented is sent exactly when it is accepted and the write does not fail (R124). -/
theorem sentInStep_of_txValid (h : txValid s = true) :
    sentInStep s = if s.input.txReady = true ∧ s.input.txErr = false then [(out s s.input).txData] else [] := by
  simp [sentInStep, h, out]

/-- In `TXS` the state machine sends the start command of 8 bytes (R120). -/
theorem fsmStep_txs (hf : s.fsm = .txs) (hop : s.op = .txstart ∨ s.op = .run) (i : Inputs) (a : Act) :
    fsmStep s i a = txStep 8 s i a := by
  rcases hop with hop | hop <;> simp [fsmStep, hf, hop, legalPair, Config.startLen]

/-- In `TXR` the state machine sends the request of 6 bytes (R121). -/
theorem fsmStep_txr (hf : s.fsm = .txr) (hop : s.op = .txreq ∨ s.op = .sample ∨ s.op = .run) (i : Inputs) (a : Act) :
    fsmStep s i a = txStep 6 s i a := by
  rcases hop with hop | hop | hop <;> simp [fsmStep, hf, hop, legalPair, Config.reqLen]

/-! A quiet step while a byte of the frame is left: the write fails, a byte or the last one is accepted, nothing happens. -/

section
variable {len : Nat} (hq : HostQuiet s) (hfsm : ∀ a, fsmStep s s.input a = txStep len s s.input a)
include hq hfsm

theorem step_tx_failed (hx : s.txi.toNat < len) (he : s.input.txErr = true) :
    step s = .next (Act.finish s 0 (if s.fsm = .txs then fatal .sensorStartFailed (s.txi.setWidth 8) ⟨ticked s, 0⟩
      else raiseError s .requestFailed (s.txi.setWidth 8) ⟨ticked s, 0⟩)) :=
  step_quiet_ok hq (by rw [hfsm, txStep_ok hx, if_pos he])

theorem step_tx_sent (hx : s.txi.toNat < len - 1) (he : s.input.txErr = false) (hr : s.input.txReady = true) :
    step s = .next { ticked s with txi := s.txi + 1 } :=
  step_quiet_unset hq (by simp [hfsm, txStep_ok (show s.txi.toNat < len by omega), he, hr, hx.ne]) (by simp)

theorem step_tx_last (c : BitVec 4) (hc : c.toNat = len) (hx : s.txi.toNat = len - 1) (hlen : 0 < len)
    (he : s.input.txErr = false) (hr : s.input.txReady = true) :
    step s = .next (Act.finish s 0 (txDone s ⟨{ ticked s with txi := c }, 0⟩)) := by
  have hnext : s.txi + 1 = c := by bv_omega
  exact step_quiet_ok hq (by simp [hfsm, txStep_ok (show s.txi.toNat < len by omega), he, hr, hx, ← hnext])

theorem step_tx_waits (hx : s.txi.toNat < len) (he : s.input.txErr = false) (hr : s.input.txReady = false) :
    step s = .next (ticked s) :=
  step_quiet_unset hq (by simp [hfsm, txStep_ok hx, he, hr]) (by simp)

end

end Sys2Proof.Machine

open Sys2Proof Sys2Proof.Machine in
/-- Settles O31: the frame is sent byte by byte; its end, a failed write and a waiting adapter are the branches of R124. -/
theorem transmitStepSendsTheCommandFrames : Obligations.TransmitStepSendsTheCommandFrames := by
  intro s hq
  refine ⟨fun hf hop hx => ?_, fun hf hop hx => ?_⟩
  · have hfsm := fsmStep_txs hf hop s.input
    have hvalid : txValid s = true := by simp [txValid, hf]
    refine ⟨hvalid, txData_txs hf ⟨s.txi.toNat, hx⟩ rfl, sentInStep_of_txValid hvalid, fun he => ?_,
      fun he hr hlt => step_tx_sent hq hfsm hlt he hr, fun he hr hlast hrun => ?_, fun he hr hlast hone => ?_,
      step_tx_waits hq hfsm hx⟩
    · rw [step_tx_failed hq hfsm hx he, if_pos hf, finish_fatal]
    · rw [step_tx_last hq hfsm 8 rfl hlast (by decide) he hr, txDone, if_pos hf, if_pos hrun]
      exact congrArg _ (finish_of_unset (by simp))
    · have hne : s.op ≠ .run := by simp [hone]
      rw [step_tx_last hq hfsm 8 rfl hlast (by decide) he hr, txDone, if_pos hf, if_neg hne, finish_completeOk hne]
  · have hfsm := fsmStep_txr hf hop s.input
    have hvalid : txValid s = true := by simp [txValid, hf]
    have hnot : s.fsm ≠ .txs := by simp [hf]
    refine ⟨hvalid, txData_txr hf ⟨s.txi.toNat, hx⟩ rfl, sentInStep_of_txValid hvalid, fun he => ?_,
      fun he hr hlt => step_tx_sent hq hfsm hlt he hr, fun he hr hlast hone => ?_, fun he hr hlast hcycle => ?_,
      step_tx_waits hq hfsm hx⟩
    · rw [step_tx_failed hq hfsm hx he, if_neg hnot, finish_raiseError (by simp)]
    · have hne : s.op ≠ .run := by simp [hone]
      rw [step_tx_last hq hfsm 6 rfl hlast (by decide) he hr, txDone, if_neg hnot, if_pos hone, finish_completeOk hne]
    · rw [step_tx_last hq hfsm 6 rfl hlast (by decide) he hr, txDone, if_neg hnot, if_neg hcycle]
      exact congrArg _ (finish_of_unset (by simp))

open Sys2Proof Sys2Proof.Machine in
/-- Settles O41: the step stores the unstuffed frame from cell 0 of `UNS` on and ends the operation. -/
theorem unstuffStepWritesTheUnstuffedFrame : Obligations.UnstuffStepWritesTheUnstuffedFrame := by
  intro s hq hf hop hr hm u
  refine ⟨_, step_unstuff hq hf hop hr, fun j hj => ?_, fun a ha => ?_, ?_⟩
  · show ((Safety.ticked s).mem.writeBytes unsBase u).read (unsBase + j) = u.getD j 0
    rw [startAct_mem, Memory.read_writeBytes hm, if_pos (by omega), Nat.add_sub_cancel_left]
  · show ((Safety.ticked s).mem.writeBytes unsBase u).read a = s.mem.read a
    rw [startAct_mem, Memory.read_writeBytes hm, if_neg (by simp only [unsBase]; omega)]
  · simp [Safety.finishedOk, unstuffInto, u]

open Sys2Proof Sys2Proof.Machine in
/-- Settles O42: the payload is read cell by cell from `UNS`, and decoding it succeeds exactly with 40 bytes. -/
theorem decodeStepWritesTheReading : Obligations.DecodeStepWritesTheReading := by
  intro s hq hf hop hu p
  have hstep := step_decode hq hf hop hu
  refine ⟨⟨payload_length s _, fun k hk => ?_⟩, fun hp => ?_, fun r hr => ?_, fun hp => ⟨_, decodePayload_some hp⟩⟩
  · rw [payload_length] at hk
    exact (Memory.readBytes_getD s.mem _ _ k hk).trans (congrArg s.mem.read (Nat.add_assoc _ _ _))
  · rw [hstep, finish_decodeInto_short (by simp) hp]
  · rw [hstep, finish_decodeInto_some (by simp) hr]

open Sys2Proof Sys2Proof.Machine Sys2Proof.Safety in
/-- Settles O44: the accept sequence of `UNSTUFF` and then its `DEC` step, both on scripted inputs. -/
theorem unstuffTakesTwoSteps : Obligations.UnstuffTakesTwoSteps := by
  intro s rest hinv hf hscript
  have hinput : s.input = hostWriteInputs 0x00 0x00000005 := by simp [State.input, hscript]
  have hdec : decode s.cfg.rawCap 0x00000005 = .ok .unstuff := encodeThenDecodeIsIdentity s.cfg.rawCap .unstuff rfl
  obtain ⟨t, ht⟩ : ∃ t, t = accept .unstuff 0 .dec (ticked s) := ⟨_, rfl⟩
  have hfirst : step s = .next t := by
    rw [step_command (by simp [HostWritesWord, hinput, hostWriteInputs, hostWrites]) hdec, ht]
    exact commandStep_idle hf (by simp)
  have hquiet : HostQuiet t := by simp [HostQuiet, ht, State.input, State.advance, hscript, hostWrites]
  have hmem : t.mem.wf := by simpa [ht] using hinv.buffers.mem_wf
  have hraw : t.rawcnt.toNat ≤ t.cfg.rawCap := by simpa [ht] using hinv.buffers.rawcnt_le
  have hframe : t.rawFrame = s.rawFrame := by simp [State.rawFrame, ht]
  have hsecond := step_unstuff hquiet (by simp [ht]) (by simp [ht]) hraw
  rw [← hframe]
  exact ⟨t, _, hfirst, by simp [ht], by simp [ht], by simp [ht], by simp [ht], hsecond, rfl, rfl,
    unstuffInto_payload hmem, unstuffInto_rawFrame hmem hraw, by simp [finishedOk, ht], rfl, by simp [finishedOk, ht],
    by simp [finishedOk, ht], by simp [finishedOk, ht]⟩

namespace Sys2Proof.Machine

open Sys2Proof.Safety

/-! ### binary32 patterns (R102, R134) -/

theorem toNat_expo (w : Word) : (expo w).toNat = (w.extractLsb' 0 31).toNat / 2 ^ 23 := by
  have h : w.toNat < 2 ^ 32 := w.isLt
  simp only [expo, BitVec.extractLsb'_toNat, Nat.shiftRight_eq_div_pow]
  omega

theorem toNat_frac (w : Word) : (frac w).toNat = (w.extractLsb' 0 31).toNat % 2 ^ 23 := by
  simp only [frac, BitVec.extractLsb'_toNat, Nat.shiftRight_eq_div_pow]
  omega

theorem expo_eq_inf {w : Word} : expo w = 255#8 ↔ 255 * 2 ^ 23 ≤ (w.extractLsb' 0 31).toNat := by
  rw [BitVec.toNat_eq, toNat_expo]
  have h : (w.extractLsb' 0 31).toNat < 2 ^ 31 := (w.extractLsb' 0 31).isLt
  simp only [BitVec.toNat_ofNat]
  omega

/-- The magnitude by the bits below the sign (R134). -/
theorem magScaled_eq (w : Word) : magScaled w =
    if (w.extractLsb' 0 31).toNat / 2 ^ 23 = 0 then (w.extractLsb' 0 31).toNat % 2 ^ 23
    else (2 ^ 23 + (w.extractLsb' 0 31).toNat % 2 ^ 23) * 2 ^ ((w.extractLsb' 0 31).toNat / 2 ^ 23 - 1) := by
  simp only [magScaled, BitVec.toNat_eq, toNat_expo, toNat_frac]
  rfl

/-- The magnitude does not depend on the sign. -/
theorem magScaled_congr {v w : Word} (h : v.extractLsb' 0 31 = w.extractLsb' 0 31) : magScaled v = magScaled w := by
  rw [magScaled_eq, magScaled_eq, h]

/-- A word is its sign and its other bits. -/
theorem sgn_append_low (w : Word) : sgn w ++ w.extractLsb' 0 31 = w := by
  have h : w.toNat < 2 ^ 32 := w.isLt
  rw [BitVec.toNat_eq, toNat_append_eq, sgn, BitVec.extractLsb'_toNat, BitVec.extractLsb'_toNat]
  simp only [Nat.shiftRight_eq_div_pow]
  omega

theorem word_ext_sgn {v w : Word} (hs : sgn v = sgn w) (hl : v.extractLsb' 0 31 = w.extractLsb' 0 31) : v = w := by
  rw [← sgn_append_low v, ← sgn_append_low w, hs, hl]

theorem getLsbD_sign (w : Word) : w.getLsbD 31 = (sgn w).getLsbD 0 := by simp [sgn]

/-- `w` without its sign is the pattern of the significand `k` at the scale `e`; the largest `k`, which a carry gives, is
the least significand of the next scale. -/
structure Scaled (w : Word) (e k : Nat) : Prop where
  low : (w.extractLsb' 0 31).toNat = e * 2 ^ 23 + k
  le : k ≤ 2 ^ 24
  normal : e = 0 ∨ 2 ^ 23 ≤ k

/-- Every word has a scale and a significand below the carry (R134). -/
theorem exists_scaled (w : Word) : ∃ e k, k < 2 ^ 24 ∧ Scaled w e k := by
  by_cases h : (w.extractLsb' 0 31).toNat < 2 ^ 23
  · exact ⟨0, (w.extractLsb' 0 31).toNat, by omega, by omega, by omega, .inl rfl⟩
  · exact ⟨(w.extractLsb' 0 31).toNat / 2 ^ 23 - 1, 2 ^ 23 + (w.extractLsb' 0 31).toNat % 2 ^ 23, by omega, by omega,
      by omega, by omega⟩

/-- The magnitude by scale and significand (R134). -/
theorem Scaled.magnitude {w : Word} {e k : Nat} (h : Scaled w e k) : magScaled w = k * 2 ^ e := by
  obtain ⟨hlow, hle, hnormal⟩ := h
  rw [magScaled_eq, hlow]
  by_cases hsub : k < 2 ^ 23
  · obtain rfl : e = 0 := by omega
    rw [if_pos (by omega), show (0 * 2 ^ 23 + k) % 2 ^ 23 = k by omega, pow_zero, mul_one]
  rw [if_neg (by omega)]
  by_cases hcarry : k = 2 ^ 24
  · rw [show (e * 2 ^ 23 + k) / 2 ^ 23 - 1 = e + 1 by omega, show (e * 2 ^ 23 + k) % 2 ^ 23 = 0 by omega, hcarry]
    ring
  · rw [show (e * 2 ^ 23 + k) / 2 ^ 23 - 1 = e by omega, show 2 ^ 23 + (e * 2 ^ 23 + k) % 2 ^ 23 = k by omega]

/-- The largest finite magnitude, in the units of `magScaled`. -/
def maxScaled : Nat := (2 ^ 24 - 1) * 2 ^ 253

theorem magScaled_le {w : Word} (h : expo w ≠ 255#8) : magScaled w ≤ maxScaled := by
  obtain ⟨e, k, hk, hs⟩ := exists_scaled w
  rw [ne_eq, expo_eq_inf, hs.low] at h
  rw [hs.magnitude]
  rcases hs.normal with rfl | hn
  · exact Nat.mul_le_mul (by omega) (by decide)
  · exact Nat.mul_le_mul (by omega) (Nat.pow_le_pow_right (by decide) (by omega))

/-! ### Rounding a quotient -/

/-- A rounded quotient is the floor, or one more when that is no farther. -/
theorem divNearestEven_cases (a b : Nat) :
    (divNearestEven a b = a / b ∧ (2 * (a % b) < b ∨ (2 * (a % b) = b ∧ a / b % 2 = 0))) ∨
      (divNearestEven a b = a / b + 1 ∧ (b < 2 * (a % b) ∨ (2 * (a % b) = b ∧ (a / b + 1) % 2 = 0))) := by
  simp only [divNearestEven]
  split_ifs <;> omega

theorem divNearestEven_le {a b k : Nat} (hb : 0 < b) (h : a ≤ k * b) : divNearestEven a b ≤ k := by
  have hdiv := Nat.div_add_mod a b
  have hq : a / b ≤ k := (Nat.div_le_div_right h).trans_eq (Nat.mul_div_cancel k hb)
  rcases divNearestEven_cases a b with ⟨hd, -⟩ | ⟨hd, hr⟩
  · omega
  · rcases hq.lt_or_eq with hlt | heq
    · omega
    · rw [heq, Nat.mul_comm] at hdiv
      omega

theorem le_divNearestEven {a b k : Nat} (hb : 0 < b) (h : k * b ≤ a) : k ≤ divNearestEven a b := by
  have hq : k ≤ a / b := (Nat.le_div_iff_mul_le hb).2 h
  rcases divNearestEven_cases a b with ⟨hd, -⟩ | ⟨hd, -⟩ <;> omega

/-- No multiple of `b` is nearer to `a` than the rounded quotient's, and one as near is the same or the quotient is even. -/
theorem divNearestEven_nearest (a b k : Nat) (hb : 0 < b) :
    ((divNearestEven a b * b : ℤ) - a).natAbs ≤ ((k * b : ℤ) - a).natAbs ∧
      (((divNearestEven a b * b : ℤ) - a).natAbs = ((k * b : ℤ) - a).natAbs →
        k = divNearestEven a b ∨ divNearestEven a b % 2 = 0) := by
  have hdiv : a / b * b + a % b = a := Nat.div_add_mod' a b
  have hmod := Nat.mod_lt a hb
  have hsucc : (a / b + 1) * b = a / b * b + b := Nat.succ_mul _ _
  have hk : (k < a / b ∧ k * b + b ≤ a / b * b) ∨ k = a / b ∨ k = a / b + 1 ∨
      (a / b + 1 < k ∧ a / b * b + 2 * b ≤ k * b) := by
    rcases lt_trichotomy k (a / b) with h | h | h
    · exact .inl ⟨h, by nlinarith⟩
    · exact .inr (.inl h)
    · rcases (Nat.succ_le_of_lt h).eq_or_lt with h | h
      · exact .inr (.inr (.inl h.symm))
      · exact .inr (.inr (.inr ⟨h, by nlinarith⟩))
  simp only [← Nat.cast_mul]
  rcases divNearestEven_cases a b with ⟨hd, hr⟩ | ⟨hd, hr⟩ <;> rw [hd]
  all_goals rcases hk with ⟨hlt, hk⟩ | rfl | rfl | ⟨hlt, hk⟩ <;> omega

/-! ### The pattern nearest to a number of hundredths (R136) -/

/-- `n` hundredths are at most the largest finite magnitude. -/
def Representable (n : Nat) : Prop := n * 2 ^ 149 ≤ 100 * maxScaled

/-- The scale of `rne32Hundredths n`. -/
def scaleOf (n : Nat) : Nat := Nat.log2 (n * 2 ^ 149 / 100) - 23

/-- The significand of `rne32Hundredths n`, the carry included. -/
def significandOf (n : Nat) : Nat := divNearestEven (n * 2 ^ 149) (100 * 2 ^ scaleOf n)

theorem unit_pos (n : Nat) : 0 < 100 * 2 ^ scaleOf n := by positivity

/-- Above scale 0 the significand has its leading bit: the scale is the least that leaves 24 bits. -/
theorem scaleOf_normal (n : Nat) : scaleOf n = 0 ∨ 2 ^ 23 * (100 * 2 ^ scaleOf n) ≤ n * 2 ^ 149 := by
  by_cases h : scaleOf n = 0
  · exact .inl h
  · have hlog : Nat.log2 (n * 2 ^ 149 / 100) = scaleOf n + 23 := by unfold scaleOf at *; omega
    have hne : n * 2 ^ 149 / 100 ≠ 0 := by rintro h0; rw [h0] at hlog; simp at hlog
    have hle := Nat.log2_self_le hne
    rw [hlog, pow_add] at hle
    right; omega

theorem scaleOf_fits (n : Nat) : n * 2 ^ 149 ≤ 2 ^ 24 * (100 * 2 ^ scaleOf n) := by
  have hlt : n * 2 ^ 149 / 100 < 2 ^ (Nat.log2 (n * 2 ^ 149 / 100) + 1) := Nat.lt_log2_self
  have hle : 2 ^ (Nat.log2 (n * 2 ^ 149 / 100) + 1) ≤ 2 ^ (scaleOf n + 24) :=
    Nat.pow_le_pow_right (by decide) (by unfold scaleOf; omega)
  rw [pow_add (2 : ℕ) (scaleOf n)] at hle
  omega

/-- A representable number of hundredths gives a finite pattern (R136). -/
theorem pattern_finite {n : Nat} (hn : Representable n) : scaleOf n * 2 ^ 23 + significandOf n < 255 * 2 ^ 23 := by
  have hle : significandOf n ≤ 2 ^ 24 := divNearestEven_le (unit_pos n) (scaleOf_fits n)
  have hscale : scaleOf n ≤ 253 := by
    by_contra hlt
    have hpow : 2 ^ 254 ≤ 2 ^ scaleOf n := Nat.pow_le_pow_right (by decide) (by omega)
    have hnormal := (scaleOf_normal n).resolve_left (by omega)
    unfold Representable maxScaled at hn
    omega
  rcases hscale.lt_or_eq with hlt | heq
  · omega
  · have : significandOf n ≤ 2 ^ 24 - 1 := divNearestEven_le (unit_pos n) (by
      rw [heq]; unfold Representable maxScaled at hn; omega)
    omega

theorem rne32Hundredths_scaled {n : Nat} (hn : Representable n) {r : Word}
    (hr : r.extractLsb' 0 31 = (rne32Hundredths n).extractLsb' 0 31) : Scaled r (scaleOf n) (significandOf n) := by
  have hfin := pattern_finite hn
  refine ⟨?_, divNearestEven_le (unit_pos n) (scaleOf_fits n),
    (scaleOf_normal n).imp_right (le_divNearestEven (unit_pos n))⟩
  rw [hr, show rne32Hundredths n = BitVec.ofNat 32 (scaleOf n * 2 ^ 23 + significandOf n) from rfl,
    BitVec.extractLsb'_toNat, BitVec.toNat_ofNat, Nat.shiftRight_zero]
  omega

/-- The distance of the magnitude of `w` from `n` hundredths, in units of 2^-149 / 100. -/
def gap (w : Word) (n : Nat) : Nat := (((magScaled w * 100 : ℕ) : ℤ) - (n * 2 ^ 149 : ℕ)).natAbs

/-- `r` is finite and no pattern is nearer to `n` hundredths; one as near has the same magnitude, or the significand of `r` is
even (R136). -/
structure Nearest (r : Word) (n : Nat) : Prop where
  finite : expo r ≠ 255#8
  gap_le : ∀ p, gap r n ≤ gap p n
  tie : ∀ p, gap r n = gap p n → magScaled p = magScaled r ∨ r.getLsbD 0 = false

theorem natAbs_sub_lt {x y a : Nat} (hyx : y < x) (hxa : x ≤ a) : ((x : ℤ) - a).natAbs < ((y : ℤ) - a).natAbs := by
  omega

/-- A pattern is no nearer than some multiple of the spacing at the scale of `n`: a pattern of a smaller scale lies below the
least normal significand of this one, and that below `n` hundredths. -/
theorem exists_multiple_le_gap (p : Word) (n : Nat) :
    ∃ k : Nat, (((k : ℤ) * (100 * 2 ^ scaleOf n : ℕ)) - (n * 2 ^ 149 : ℕ)).natAbs ≤ gap p n ∧
      ((((k : ℤ) * (100 * 2 ^ scaleOf n : ℕ)) - (n * 2 ^ 149 : ℕ)).natAbs = gap p n →
        magScaled p * 100 = k * (100 * 2 ^ scaleOf n)) := by
  obtain ⟨e, k, hk, hp⟩ := exists_scaled p
  by_cases hle : scaleOf n ≤ e
  · have heq : magScaled p * 100 = k * 2 ^ (e - scaleOf n) * (100 * 2 ^ scaleOf n) := by
      rw [hp.magnitude, ← Nat.sub_add_cancel hle, pow_add, Nat.add_sub_cancel]
      ring
    refine ⟨k * 2 ^ (e - scaleOf n), ?_, fun _ => heq⟩
    rw [gap, heq, Nat.cast_mul (k * 2 ^ (e - scaleOf n))]
  · have hnormal := (scaleOf_normal n).resolve_left (by omega)
    have hbelow : magScaled p * 100 < 2 ^ 23 * (100 * 2 ^ scaleOf n) := by
      have hpow : 2 ^ (e + 1) ≤ 2 ^ scaleOf n := Nat.pow_le_pow_right (by decide) (by omega)
      have hmul : k * 2 ^ e < 2 ^ 24 * 2 ^ e := Nat.mul_lt_mul_of_pos_right hk (by positivity)
      rw [hp.magnitude]
      rw [pow_succ] at hpow
      omega
    have hfar : (((2 ^ 23 : ℕ) : ℤ) * (100 * 2 ^ scaleOf n : ℕ) - (n * 2 ^ 149 : ℕ)).natAbs < gap p n := by
      rw [← Nat.cast_mul (2 ^ 23), gap]
      exact natAbs_sub_lt hbelow hnormal
    exact ⟨2 ^ 23, hfar.le, fun h => absurd h hfar.ne⟩

theorem Scaled.getLsbD_zero {w : Word} {e k : Nat} (h : Scaled w e k) (hk : k % 2 = 0) : w.getLsbD 0 = false := by
  have hlow := h.low
  rw [BitVec.extractLsb'_toNat, Nat.shiftRight_zero] at hlow
  simp only [BitVec.getLsbD, Nat.testBit_zero, decide_eq_false_iff_not]
  omega

theorem rne32Hundredths_nearest {n : Nat} (hn : Representable n) {r : Word}
    (hr : r.extractLsb' 0 31 = (rne32Hundredths n).extractLsb' 0 31) : Nearest r n := by
  have hscaled := rne32Hundredths_scaled hn hr
  have hmag : magScaled r * 100 = significandOf n * (100 * 2 ^ scaleOf n) := by rw [hscaled.magnitude]; ring
  have hgap : gap r n = (((significandOf n : ℤ) * (100 * 2 ^ scaleOf n : ℕ)) - (n * 2 ^ 149 : ℕ)).natAbs := by
    rw [gap, hmag, Nat.cast_mul (significandOf n)]
  have nearest := fun k => divNearestEven_nearest (n * 2 ^ 149) (100 * 2 ^ scaleOf n) k (unit_pos n)
  refine ⟨fun h => ?_, fun p => ?_, fun p hp => ?_⟩
  · have hfin := pattern_finite hn
    rw [expo_eq_inf, hscaled.low] at h
    omega
  · obtain ⟨k, hk, -⟩ := exists_multiple_le_gap p n
    exact hgap.trans_le ((nearest k).1.trans hk)
  · obtain ⟨k, hk, heq⟩ := exists_multiple_le_gap p n
    obtain ⟨hle, htie⟩ := nearest k
    have hall := hgap.symm.trans hp
    rcases htie (hle.antisymm (hk.trans_eq hall.symm)) with hkd | heven
    · left
      have hpk := heq (hk.antisymm (hall.symm.trans_le hle))
      rw [hkd] at hpk
      exact Nat.eq_of_mul_eq_mul_right (by decide : 0 < 100) (hpk.trans hmag.symm)
    · exact .inr (hscaled.getLsbD_zero heven)

/-! ### `ROUND2` (R135 to R137) -/

/-- The default `ROUND2` of a finite pattern: its sign, and the pattern nearest to its hundredths (R136). -/
theorem round2Default_finite {w : Word} (h : expo w ≠ 255#8) :
    round2Default w = sgn w ++ (rne32Hundredths (hundredths w)).extractLsb' 0 31 := if_neg h

theorem hundredths_representable {w : Word} (h : expo w ≠ 255#8) : Representable (hundredths w) := by
  have hle := magScaled_le h
  unfold Representable hundredths
  unfold maxScaled at *
  omega

theorem hundredthsDown_representable {w : Word} (h : expo w ≠ 255#8) : Representable (hundredthsDown w) :=
  (Nat.mul_le_mul_right _ (Nat.div_le_div_right (by omega))).trans (hundredths_representable h)

/-- The distance of `n` from 100 times the magnitude of `w`, in units of 2^-150. -/
def hundredthsGap (w : Word) (n : Nat) : Nat := ((200 * magScaled w : ℤ) - n * 2 ^ 150).natAbs

theorem hundredths_gap_le (w : Word) : hundredthsGap w (hundredths w) ≤ 2 ^ 149 := by
  unfold hundredthsGap hundredths
  omega

theorem hundredthsDown_gap_le (w : Word) : hundredthsGap w (hundredthsDown w) ≤ 2 ^ 149 := by
  unfold hundredthsGap hundredthsDown
  omega

/-- On a tie the two nearest numbers of hundredths are neighbours (R135 c, R137 a). -/
theorem hundredths_of_tie {w : Word} (htie : hundredthsGap w (hundredthsDown w) = 2 ^ 149) :
    hundredths w = hundredthsDown w + 1 := by
  have hle : hundredthsDown w * 2 ^ 150 ≤ 200 * magScaled w + (2 ^ 149 - 1) := Nat.div_mul_le_self _ _
  have heq : 200 * magScaled w + 2 ^ 149 = (hundredthsDown w + 1) * 2 ^ 150 := by unfold hundredthsGap at htie; omega
  rw [hundredths, heq, Nat.mul_div_cancel _ (by decide)]

/-- The number of hundredths that half-even takes (R135 c). -/
def hundredthsEven (w : Word) : Nat := if hundredths w % 2 = 0 then hundredths w else hundredthsDown w

theorem hundredthsEven_of_tie {w : Word} (htie : hundredthsGap w (hundredthsEven w) = 2 ^ 149) :
    hundredthsEven w % 2 = 0 := by
  unfold hundredthsEven at *
  split_ifs at htie ⊢ with h
  · exact h
  · have := hundredths_of_tie htie
    omega

/-- The function a machine has sends a finite pattern to the one nearest to a nearest number of hundredths: which one, the
default and half-even say (R135, R136). -/
theorem round2_finite (cfg : Config.Params) {w : Word} (h : expo w ≠ 255#8) :
    ∃ n, (n = hundredths w ∨ n = hundredthsDown w) ∧
      (round2 cfg w).extractLsb' 0 31 = (rne32Hundredths n).extractLsb' 0 31 ∧
      (cfg.rounding = .halfAway → n = hundredths w) ∧ (cfg.rounding = .halfEven → n = hundredthsEven w) := by
  cases hc : cfg.rounding with
  | halfAway =>
    refine ⟨hundredths w, .inl rfl, ?_, fun _ => rfl, nofun⟩
    simp only [round2, hc]
    rw [round2Default_finite h, low_append]
  | halfEven =>
    refine ⟨hundredthsEven w, ite_eq_or_eq _ _ _, ?_, nofun, fun _ => rfl⟩
    simp only [round2, hc, round2HalfEven, if_neg h]
    exact low_append _ _
  | given graph =>
    have hr := round2_roundsToHundredth cfg w
    simp only [roundsToHundredth, Bool.or_eq_true, Bool.and_eq_true, decide_eq_true_eq, h, false_or] at hr
    rcases hr.1 with hlow | hlow
    · exact ⟨_, .inl rfl, hlow, nofun, nofun⟩
    · exact ⟨_, .inr rfl, hlow, nofun, nofun⟩

/-- Every `ROUND2` keeps the sign, unless the result is a zero (R135). -/
theorem round2_sgn (cfg : Config.Params) {w : Word} (h : expo w ≠ 255#8) :
    sgn (round2 cfg w) = sgn w ∨ (round2 cfg w).extractLsb' 0 31 = 0 := by
  have hr := round2_roundsToHundredth cfg w
  simp only [roundsToHundredth, Bool.or_eq_true, Bool.and_eq_true, decide_eq_true_eq, h, false_or] at hr
  exact hr.2

/-! The same in the rational numbers of the statements. -/

theorem abs_div_eq_natAbs_div (z : ℤ) {c : ℚ} (hc : 0 < c) : |(z : ℚ) / c| = (z.natAbs : ℚ) / c := by
  rw [abs_div, abs_of_pos hc, Nat.cast_natAbs, Int.cast_abs]

theorem abs_mag_sub (w : Word) (n : Nat) : |mag w - (n : ℚ) / 100| = (gap w n : ℚ) / (2 ^ 149 * 100) := by
  rw [gap, ← abs_div_eq_natAbs_div _ (by positivity), mag, div_sub_div _ _ (by positivity) (by positivity)]
  push_cast
  ring_nf

theorem abs_hundred_mag_sub (w : Word) (n : Nat) : |100 * mag w - (n : ℚ)| = (hundredthsGap w n : ℚ) / 2 ^ 150 := by
  rw [hundredthsGap, ← abs_div_eq_natAbs_div _ (by positivity), mag]
  push_cast
  ring_nf

theorem hundredths_eq_floor (w : Word) : (hundredths w : ℤ) = ⌊100 * mag w + 1 / 2⌋ := by
  have h : 100 * mag w + 1 / 2 = ((200 * magScaled w + 2 ^ 149 : ℕ) : ℚ) / (2 ^ 150 : ℕ) := by
    rw [mag]; push_cast; ring
  rw [h, Rat.floor_natCast_div_natCast]
  rfl

theorem Nearest.abs_le {r : Word} {n : Nat} (h : Nearest r n) (p : Word) :
    |mag r - (n : ℚ) / 100| ≤ |mag p - (n : ℚ) / 100| := by
  rw [abs_mag_sub, abs_mag_sub]
  exact div_le_div_of_nonneg_right (Nat.cast_le.2 (h.gap_le p)) (by positivity)

theorem Nearest.abs_tie {r : Word} {n : Nat} (h : Nearest r n) {p : Word}
    (htie : |mag r - (n : ℚ) / 100| = |mag p - (n : ℚ) / 100|) : mag p = mag r ∨ r.getLsbD 0 = false := by
  rw [abs_mag_sub, abs_mag_sub, div_left_inj' (by positivity), Nat.cast_inj] at htie
  exact (h.tie p htie).imp_left fun hm => by rw [mag, mag, hm]

theorem mag_eq_zero {w : Word} (h : w.extractLsb' 0 31 = 0) : mag w = 0 := by
  have hs : Scaled w 0 0 := ⟨by rw [h]; rfl, by decide, .inl rfl⟩
  rw [mag, hs.magnitude]
  simp

/-! Large magnitudes and the sign (R137 d, f). -/

/-- A magnitude with scale 148 or more is a whole number of hundredths. -/
theorem hundredths_of_large {w : Word} {e k : Nat} (h : Scaled w e k) (he : 148 ≤ e) :
    hundredths w * 2 ^ 149 = k * (100 * 2 ^ e) := by
  obtain ⟨j, rfl⟩ := Nat.exists_eq_add_of_le he
  have hmag : 200 * magScaled w = 50 * (k * 2 ^ j) * 2 ^ 150 := by rw [h.magnitude, pow_add]; ring
  have hhund : hundredths w = 50 * (k * 2 ^ j) := by unfold hundredths; omega
  rw [hhund, pow_add]
  ring

/-- A normal finite pattern whose magnitude is a whole number of hundredths is what that number rounds to. -/
theorem rne32Hundredths_exact {w : Word} {e k : Nat} (hfin : expo w ≠ 255#8) (h : Scaled w e k) (hk : k < 2 ^ 24)
    (hnormal : 2 ^ 23 ≤ k) (hn : hundredths w * 2 ^ 149 = k * (100 * 2 ^ e)) :
    (rne32Hundredths (hundredths w)).extractLsb' 0 31 = w.extractLsb' 0 31 := by
  have hdiv : hundredths w * 2 ^ 149 / 100 = k * 2 ^ e := by
    rw [hn, Nat.mul_left_comm, Nat.mul_div_cancel_left _ (by decide)]
  have hlog : Nat.log2 (k * 2 ^ e) = e + 23 := by
    have hle : 2 ^ 23 * 2 ^ e ≤ k * 2 ^ e := Nat.mul_le_mul_right _ hnormal
    have hlt : k * 2 ^ e < 2 ^ 24 * 2 ^ e := Nat.mul_lt_mul_of_pos_right hk (by positivity)
    rw [← pow_add, Nat.add_comm] at hle hlt
    exact (Nat.log2_eq_iff (Nat.ne_of_gt ((by positivity : 0 < 2 ^ (e + 23)).trans_le hle))).2 ⟨hle, hlt⟩
  have hscale : scaleOf (hundredths w) = e := by rw [scaleOf, hdiv, hlog, Nat.add_sub_cancel]
  have hsig : significandOf (hundredths w) = k := by
    rw [significandOf, hscale, hn]
    exact (divNearestEven_le (by positivity) le_rfl).antisymm (le_divNearestEven (by positivity) le_rfl)
  rw [BitVec.toNat_eq, h.low, (rne32Hundredths_scaled (hundredths_representable hfin) rfl).low, hscale, hsig]

/-- Flipping the sign bit flips the sign and leaves the other bits. -/
theorem flip_sign (w : Word) :
    sgn (w ^^^ 0x80000000) = ~~~sgn w ∧ (w ^^^ 0x80000000).extractLsb' 0 31 = w.extractLsb' 0 31 := by
  constructor
  · rw [sgn, sgn, BitVec.extractLsb'_xor]
    exact BitVec.xor_allOnes
  · rw [BitVec.extractLsb'_xor]
    exact BitVec.xor_zero

end Sys2Proof.Machine

open Sys2Proof Sys2Proof.Machine in
/-- Settles O38: `n` is the floor by R136's own quotient, and the pattern of `n` hundredths is the nearest one. -/
theorem roundingIsNearestHundredthThenNearestBinary32 :
    Obligations.RoundingIsNearestHundredthThenNearestBinary32 := by
  refine ⟨fun w h => if_pos h, fun w h => ?_⟩
  have hround := round2Default_finite h
  have hnear : Nearest (round2Default w) (hundredths w) :=
    rne32Hundredths_nearest (hundredths_representable h) (by rw [hround, low_append])
  refine ⟨hundredths_eq_floor w, ?_, hnear.finite, fun p _ => ⟨hnear.abs_le p, hnear.abs_tie⟩⟩
  rw [getLsbD_sign, getLsbD_sign, hround, sgn_append]

open Sys2Proof Sys2Proof.Machine in
/-- Settles O39: such a magnitude is a whole number of hundredths, and its own pattern is exact. -/
theorem largeValuesAreNotRounded : Obligations.LargeValuesAreNotRounded := by
  intro w h
  by_cases hfin : expo w = 255#8
  · exact if_pos hfin
  obtain ⟨e, k, hk, hs⟩ := exists_scaled w
  have hexp : 149 ≤ (e * 2 ^ 23 + k) / 2 ^ 23 := by rw [← hs.low, ← toNat_expo]; exact h
  have he : 148 ≤ e := by omega
  have hlow := rne32Hundredths_exact hfin hs hk (hs.normal.resolve_left (by omega)) (hundredths_of_large hs he)
  rw [round2Default_finite hfin, hlow, sgn_append_low]

open Sys2Proof Sys2Proof.Machine in
/-- Settles O40: the magnitude that is rounded does not depend on the sign, which is kept. -/
theorem roundingIsOddInTheSign : Obligations.RoundingIsOddInTheSign := by
  intro w h
  obtain ⟨hsgn, hlow⟩ := flip_sign w
  obtain ⟨hrsgn, hrlow⟩ := flip_sign (round2Default w)
  have hfin : expo (w ^^^ 0x80000000) ≠ 255#8 := by rwa [ne_eq, expo_eq_inf, hlow, ← expo_eq_inf]
  have hhund : hundredths (w ^^^ 0x80000000) = hundredths w := by rw [hundredths, magScaled_congr hlow, hundredths]
  apply word_ext_sgn
  · rw [hrsgn, round2Default_finite hfin, round2Default_finite h, sgn_append, sgn_append, hsgn]
  · rw [hrlow, round2Default_finite hfin, round2Default_finite h, low_append, low_append, hhund]

open Sys2Proof Sys2Proof.Machine in
/-- Settles O54: each function R135 allows takes a nearest number of hundredths to the nearest pattern. -/
theorem everyRoundingIsToANearestHundredth : Obligations.EveryRoundingIsToANearestHundredth := by
  refine fun cfg => ⟨fun w h => ?_, ?_⟩
  · obtain ⟨n, hn, hlow, haway, heven⟩ := round2_finite cfg h
    obtain ⟨hrep, hgap⟩ : Representable n ∧ hundredthsGap w n ≤ 2 ^ 149 := by
      rcases hn with rfl | rfl
      · exact ⟨hundredths_representable h, hundredths_gap_le w⟩
      · exact ⟨hundredthsDown_representable h, hundredthsDown_gap_le w⟩
    have hnear := rne32Hundredths_nearest hrep hlow
    have hhalf : (1 / 2 : ℚ) = ((2 ^ 149 : ℕ) : ℚ) / 2 ^ 150 := by norm_num
    refine ⟨hnear.finite, ?_, n, ?_, fun hc => ?_, fun hc htie => ?_, fun p _ => hnear.abs_le p⟩
    · exact (round2_sgn cfg h).imp (fun hs => by rw [getLsbD_sign, getLsbD_sign, hs]) mag_eq_zero
    · rw [abs_hundred_mag_sub, hhalf]
      exact div_le_div_of_nonneg_right (Nat.cast_le.2 hgap) (by positivity)
    · rw [haway hc, hundredths_eq_floor]
    · rw [abs_hundred_mag_sub, hhalf, div_left_inj' (by positivity), Nat.cast_inj, heven hc] at htie
      rw [heven hc]
      exact hundredthsEven_of_tie htie
  · have hfin : expo 0x3F9E0610 ≠ 255#8 := by decide
    obtain ⟨n, hn, hlow, -⟩ := round2_finite cfg hfin
    have hval : (rne32Hundredths n).extractLsb' 0 31 = (0x3F9D70A4 : Word).extractLsb' 0 31 := by
      rcases hn with rfl | rfl <;> decide
    have hlow := hlow.trans hval
    exact word_ext_sgn ((round2_sgn cfg hfin).resolve_right (by rw [hlow]; decide)) hlow

/-! The timed reader family (41_timed_reader.md): the steps of `DRN` and of `RDX`. -/

namespace Sys2Proof.Machine

open Sys2Proof.Safety

variable {s : State}

/-! ### The ends of a one-shot operation and of a cycle without data (R235) -/

/-- The end of a one-shot operation with any outcome. -/
theorem finish_complete_oneShot (h : s.op ≠ .run) (k : Kind) (e : ErrCode) (c : Byte) (t : State) :
    Act.finish s 0 (complete s k e c ⟨t, 0⟩) =
      { t with result := ⟨k, e, c⟩, ip := s.ip ||| completionBits k, fsm := .idle, op := .none } := by
  rw [finish_zero]
  simp [complete_oneShot h]

/-- The end of a read without data under `RUN`: the loop cools down. -/
theorem finish_complete_run_nodata (h : s.op = .run) (e : ErrCode) (c : Byte) (t : State) :
    Act.finish s 0 (complete s .nodata e c ⟨t, 0⟩) =
      { t with result := ⟨.nodata, e, c⟩, ip := s.ip ||| completionBits .nodata, tmr := s.cfg.tCooldown,
               fsm := .cool } := by
  rw [finish_zero]
  simp [complete_run_nodata h]

/-! ### The step of `DRN` (R168) -/

/-- A quiet step in `DRN` is the drain's step and the interrupt bits it sets. -/
theorem step_drn (hq : HostQuiet s) (hf : s.fsm = .drn) (hop : s.op = .drain ∨ s.op = .sample ∨ s.op = .run) :
    step s = .next (Act.finish s 0 (drnStep s s.input ⟨ticked s, 0⟩)) :=
  step_quiet_ok hq (by rcases hop with hop | hop | hop <;> simp [fsmStep, hf, hop, legalPair])

/-! ### The six cases of the step of `RDX` (R162) -/

/-- Counting the deadline from the pre-step `DLCNT` writes `DLCNT` only (R164). -/
theorem countDeadline_eq {t : State} (ht : t.dlcnt = s.dlcnt) (i : Inputs) :
    countDeadline s i t = { t with dlcnt := if i.tick = true then s.dlcnt - 1 else s.dlcnt } := by
  unfold countDeadline
  split
  · rfl
  · rw [← ht]

section
variable (hq : HostQuiet s) (hf : s.fsm = .rdx) (hop : s.op = .readx ∨ s.op = .sample ∨ s.op = .run)
include hq hf hop

/-- A quiet step in `RDX` leaves what the read's step leaves, where it does not fault. -/
theorem step_rdx {a : Act} (h : rdxStep s s.input ⟨ticked s, 0⟩ = .ok a) : step s = .next (Act.finish s 0 a) :=
  step_quiet_ok hq (by rcases hop with hop | hop | hop <;> simpa [fsmStep, hf, hop, legalPair] using h)

/-! Cases 1 to 6 in their order; `BYTE` needs a cell that exists (R172). -/

theorem step_rdx_full (hn : s.rawcnt = readLength s) : step s = .next (Act.finish s 0 (rdxFull s ⟨ticked s, 0⟩)) :=
  step_rdx hq hf hop (by rw [rdxStep, if_pos hn])

variable (hn : s.rawcnt ≠ readLength s)
include hn

theorem step_rdx_timeout (hd : s.dlcnt = 0#32) : step s = .next (raised s .timeout s.rawcnt (ticked s)) := by
  rw [step_rdx hq hf hop (by rw [rdxStep, if_neg hn, if_pos hd]), finish_raiseError (by simp)]

variable (hd : s.dlcnt ≠ 0#32)
include hd

theorem step_rdx_err (hr : s.input.rxSt = .err) : step s = .next (raised s .ioError s.rawcnt (ticked s)) := by
  rw [step_rdx hq hf hop (by rw [rdxStep, if_neg hn, if_neg hd, hr]), finish_raiseError (by simp)]

theorem step_rdx_eos (hr : s.input.rxSt = .eos) :
    step s = .next (Act.finish s 0 (if s.op = .readx then complete s .error .streamClosed s.rawcnt ⟨ticked s, 0⟩
      else complete s .nodata .none s.rawcnt ⟨ticked s, 0⟩)) :=
  step_rdx hq hf hop (by rw [rdxStep, if_neg hn, if_neg hd, hr])

theorem step_rdx_byte (hr : s.input.rxSt = .byte) (hcap : s.rawcnt.toNat < s.cfg.rawCap) :
    step s = .next { ticked s with
      mem := s.mem.write (rawBase + s.rawcnt.toNat) s.input.rxData, rawcnt := s.rawcnt + 1,
      dlcnt := if s.input.tick = true then s.dlcnt - 1 else s.dlcnt } := by
  rw [step_rdx hq hf hop (by rw [rdxStep, if_neg hn, if_neg hd, hr]; exact if_pos hcap),
    finish_of_unset (by simp), countDeadline_eq (by simp), startAct_mem]

theorem step_rdx_none (hr : s.input.rxSt = .none) :
    step s = .next { ticked s with dlcnt := if s.input.tick = true then s.dlcnt - 1 else s.dlcnt } := by
  rw [step_rdx hq hf hop (by rw [rdxStep, if_neg hn, if_neg hd, hr]),
    finish_of_unset (by simp), countDeadline_eq (by simp)]

end

end Sys2Proof.Machine

open Sys2Proof Sys2Proof.Machine in
/-- Settles O32: a byte presented is discarded; anything else ends the drain, and in a cycle the request begins. -/
theorem drainStepDiscardsWhatIsPresented : Obligations.DrainStepDiscardsWhatIsPresented := by
  intro s hq hf hop
  refine ⟨by simp [out, rxTake_iff, hf], fun hr => ?_, fun hr hone => ?_, fun hr hcycle => ?_⟩ <;>
    rw [step_drn hq hf hop, drnStep]
  · rw [if_pos hr, finish_of_unset (by simp)]
  · rw [if_neg hr, if_pos hone, finish_completeOk (by simp [hone])]
  · rw [if_neg hr, if_neg hcycle, finish_of_unset (by simp)]

open Sys2Proof Sys2Proof.Machine in
/-- Settles O33: the six cases in their order; `SHORT_FRAME` is excluded because a cycle reads `FRAME_LEN` bytes (R184). -/
theorem readStepHasSixCases : Obligations.ReadStepHasSixCases := by
  intro s hq hf hop len dl
  refine ⟨by simp [out, rxTake_iff, hf, readLength, len, Config.frameLen], fun hn hone => ?_, fun hn hcycle => ?_,
    step_rdx_timeout hq hf hop, step_rdx_err hq hf hop, fun hn hd hr hone => ?_, fun hn hd hr hone => ?_,
    fun hn hd hr hrun => ?_, fun hn hd hr hcap hm => ?_, step_rdx_none hq hf hop⟩
  · rw [step_rdx_full hq hf hop hn, rdxFull, if_pos hone, finish_completeOk (by simp [hone])]
  · have hlen : s.rawcnt = BitVec.ofNat 8 Config.frameLen := hn.trans (if_neg hcycle)
    rw [step_rdx_full hq hf hop hn, rdxFull, if_neg hcycle, if_neg (not_not.2 hlen), finish_of_unset (by simp)]
  · rw [step_rdx_eos hq hf hop hn hd hr, if_pos hone, finish_complete_oneShot (by simp [hone])]
    rfl
  · rw [step_rdx_eos hq hf hop hn hd hr, if_neg (by simp [hone]), finish_complete_oneShot (by simp [hone])]
    rfl
  · rw [step_rdx_eos hq hf hop hn hd hr, if_neg (by simp [hrun]), finish_complete_run_nodata hrun]
    rfl
  · refine ⟨_, step_rdx_byte hq hf hop hn hd hr hcap, Memory.read_write_same hm _ _, fun a ha => ?_, ?_⟩
    · exact Memory.read_write_ne hm ha.symm _
    · simp [dl]

/-! The sample cycle family (42_sample_cycle.md): the `DEC` step of a cycle, and what a cycle depends on. -/

namespace Sys2Proof.Machine

open Sys2Proof.Safety

/-! ### The `DEC` step of a cycle (R185) -/

/-- A quiet step in `DEC` of a cycle is the decoding of what follows the header, on top of the unstuffed frame. -/
theorem step_cycle {s : State} (hq : HostQuiet s) (hf : s.fsm = .dec) (hop : s.op = .sample ∨ s.op = .run)
    (hr : s.rawcnt.toNat ≤ s.cfg.rawCap) :
    step s = .next (Act.finish s 0 (decodeInto s ((unstuff s.rawFrame).drop 5) ⟨unstuffInto s (ticked s), 0⟩)) :=
  step_quiet_ok hq (by
    rcases hop with hop | hop <;> simp [fsmStep, hf, hop, legalPair, decStep, hr, decCycle, Config.hdrLen])

/-- What storing the unstuffed frame leaves at each address (R130). -/
theorem unstuffInto_read {s t : State} (hm : t.mem.wf) (a : Nat) :
    (unstuffInto s t).mem.read a =
      if 0x80 ≤ a ∧ a < 0x80 + (unstuff s.rawFrame).length then (unstuff s.rawFrame).getD (a - 0x80) 0
      else t.mem.read a :=
  Memory.read_writeBytes hm unsBase a (unstuff s.rawFrame)

/-- `SAMPLE` in progress goes with the states of a cycle, `IDLE` and `EXITED` (R23). -/
theorem legalPair_sample {f : Fsm} : legalPair f .sample = true ↔
    f = .idle ∨ f = .exited ∨ f = .txr ∨ f = .drn ∨ f = .rdx ∨ f = .dec := by
  cases f <;> decide

/-! ### What a cycle depends on (R187) -/

/-- Two machines in the same cycle, or past it: they agree on all that the rest of the cycle reads. Of the memory these are
the bytes received; `TXI` matters only while a frame is sent, `DLCNT` only while the frame is read, and the reading only
where it is valid. -/
structure SameCycle (s t : State) : Prop where
  cfg : t.cfg = s.cfg
  deadline : t.deadline = s.deadline
  fsm : t.fsm = s.fsm
  op : t.op = s.op
  cycle : s.op = .sample ∨ s.op = .none
  result : t.result = s.result
  rawcnt : t.rawcnt = s.rawcnt
  raw : ∀ k, k < s.rawcnt.toNat → t.raw k = s.raw k
  rdvalid : t.rdvalid = s.rdvalid
  rd : s.rdvalid = true → t.rd = s.rd
  txi : txValid s = true → t.txi = s.txi
  dlcnt : s.fsm = .rdx → t.dlcnt = s.dlcnt

section
variable {s t : State} {a b : Act} (h : SameCycle s t)
include h

/-- No other operation than `SAMPLE` is in progress in either machine. -/
theorem SameCycle.op_ne {o : Operation} (h1 : o ≠ .sample := by decide) (h2 : o ≠ .none := by decide) :
    s.op ≠ o ∧ t.op ≠ o := by
  rw [h.op]
  rcases h.cycle with hop | hop <;> simp [hop, h1.symm, h2.symm]

/-- Both machines read the length of a frame (R162). -/
theorem SameCycle.readLength_eq : readLength t = readLength s := by
  rw [readLength, readLength, if_neg h.op_ne.1, if_neg h.op_ne.2]

/-- The bytes received are the same. -/
theorem SameCycle.rawFrame_eq : t.rawFrame = s.rawFrame := by
  rw [State.rawFrame, State.rawFrame, h.rawcnt]
  exact Memory.readBytes_congr h.raw

/-! #### The shared operations keep the machines in the same cycle -/

/-- The event and the ticker play no part. -/
theorem SameCycle.after_startAct : SameCycle (startAct s).st (startAct t).st := by
  obtain ⟨h1, h2, h3, h4, h5, h6, h7, h8, h9, h10, h11, h12⟩ := h
  have hv : txValid (startAct s).st = txValid s := by simp [txValid]
  constructor <;> simpa [hv, State.raw]

theorem SameCycle.after_complete (hab : SameCycle a.st b.st) (k : Kind) (e : ErrCode) (c : Byte) :
    SameCycle (complete s k e c a).st (complete t k e c b).st := by
  rw [complete_oneShot h.op_ne.1, complete_oneShot h.op_ne.2]
  exact { hab with fsm := rfl, op := rfl, cycle := .inr rfl, result := rfl, txi := by simp [txValid], dlcnt := nofun }

theorem SameCycle.after_raiseError (hab : SameCycle a.st b.st) (e : ErrCode) (c : Byte) :
    SameCycle (raiseError s e c a).st (raiseError t e c b).st :=
  h.after_complete (a := report e c a) (b := report e c b) { hab with } _ _ _

theorem SameCycle.after_startRead {u v : State} (huv : SameCycle u v) : SameCycle (startRead s u) (startRead t v) :=
  { huv with fsm := rfl, rawcnt := rfl, raw := by simp, txi := by simp [txValid], dlcnt := fun _ => h.deadline }

/-- A byte stored after those received is one more that both machines have. -/
theorem SameCycle.after_byte (hm : s.mem.wf) (hn : t.mem.wf) (hcap : s.rawcnt.toNat < 64) (d : Byte) :
    SameCycle { s with mem := s.mem.write (rawBase + s.rawcnt.toNat) d, rawcnt := s.rawcnt + 1 }
      { t with mem := t.mem.write (rawBase + s.rawcnt.toNat) d, rawcnt := s.rawcnt + 1 } := by
  refine { h with rawcnt := rfl, raw := fun k (hk : k < (s.rawcnt + 1).toNat) => ?_ }
  have hk : k = s.rawcnt.toNat ∨ k < s.rawcnt.toNat := by bv_omega
  simp only [State.raw, Memory.read_write hm, Memory.read_write hn]
  split_ifs
  · rfl
  · exact h.raw k (by omega)

theorem SameCycle.after_countDeadline (hf : s.fsm = .rdx) (i : Inputs) {u v : State} (huv : SameCycle u v) :
    SameCycle (countDeadline s i u) (countDeadline t i v) := by
  unfold countDeadline
  split
  · exact { huv with dlcnt := fun _ => congrArg (· - 1) (h.dlcnt hf) }
  · exact huv

theorem SameCycle.after_unstuffInto (hr : s.rawcnt.toNat ≤ s.cfg.rawCap) {u v : State} (huv : SameCycle u v)
    (hcnt : u.rawcnt = s.rawcnt) (hu : u.mem.wf) (hv : v.mem.wf) : SameCycle (unstuffInto s u) (unstuffInto t v) := by
  have hcap := s.cfg.rawCap_le
  refine { huv with raw := fun k hk => ?_ }
  have hk : k < u.rawcnt.toNat := hk
  have below : ¬ (0x80 ≤ rawBase + k ∧ rawBase + k < 0x80 + (unstuff s.rawFrame).length) := by
    rw [hcnt] at hk; simp only [rawBase]; omega
  simp only [State.raw, unstuffInto_read hu, unstuffInto_read hv, h.rawFrame_eq, if_neg below]
  exact huv.raw k hk

theorem SameCycle.after_decodeInto (hab : SameCycle a.st b.st) (p : List Byte) :
    SameCycle (decodeInto s p a).st (decodeInto t p b).st := by
  by_cases hp : p.length < 40
  · rw [decodeInto_short hp, decodeInto_short hp]
    exact h.after_raiseError (a := { a with st := { a.st with rdvalid := false } })
      (b := { b with st := { b.st with rdvalid := false } }) { hab with rdvalid := rfl, rd := nofun } _ _
  · rw [decodeInto_full (by omega), decodeInto_full (by omega), h.cfg]
    exact h.after_complete (a := { a with st := { a.st with rd := reading s.cfg p, rdvalid := true } })
      (b := { b with st := { b.st with rd := reading s.cfg p, rdvalid := true } })
      { hab with rdvalid := rfl, rd := fun _ => rfl } _ _ _

/-! #### The steps of the states of a cycle keep the machines in the same cycle -/

theorem SameCycle.after_drnStep (hab : SameCycle a.st b.st) (i : Inputs) :
    SameCycle (drnStep s i a).st (drnStep t i b).st := by
  simp only [drnStep, h.op]
  split_ifs
  · exact hab
  · exact h.after_complete hab _ _ _
  · exact { hab with fsm := rfl, txi := fun _ => rfl, dlcnt := nofun }

theorem SameCycle.after_txDone (hab : SameCycle a.st b.st) : SameCycle (txDone s a).st (txDone t b).st := by
  simp only [txDone, h.fsm, h.op, if_neg (h.op_ne (o := .run)).1]
  split_ifs
  · exact h.after_complete hab _ _ _
  · exact h.after_complete hab _ _ _
  · exact h.after_startRead hab

theorem SameCycle.after_txrStep {len : Nat} {i : Inputs} {a' b' : Act} (hf : s.fsm = .txr) (hab : SameCycle a.st b.st)
    (ha : txStep len s i a = .ok a') (hb : txStep len t i b = .ok b') : SameCycle a'.st b'.st := by
  have htxi : t.txi = s.txi := h.txi (by simp [txValid, hf])
  have hlen : s.txi.toNat < len := by
    by_contra hn; simp [txStep, not_lt.1 hn] at ha
  have hnot : ¬ s.fsm = .txs := by simp [hf]
  simp only [txStep_ok hlen, if_neg hnot] at ha
  simp only [txStep_ok (htxi ▸ hlen : t.txi.toNat < len), htxi, h.fsm, if_neg hnot] at hb
  obtain rfl := Except.ok.inj ha
  obtain rfl := Except.ok.inj hb
  split_ifs
  · exact h.after_raiseError hab _ _
  · exact h.after_txDone (a := { a with st := { a.st with txi := s.txi + 1 } })
      (b := { b with st := { b.st with txi := s.txi + 1 } }) { hab with txi := fun _ => rfl }
  · exact { hab with txi := fun _ => rfl }
  · exact hab

theorem SameCycle.after_rdxFull (hab : SameCycle a.st b.st) : SameCycle (rdxFull s a).st (rdxFull t b).st := by
  simp only [rdxFull, h.op, h.rawcnt]
  split_ifs
  · exact h.after_complete hab _ _ _
  · exact h.after_raiseError hab _ _
  · exact { hab with fsm := rfl, txi := by simp [txValid], dlcnt := nofun }

theorem SameCycle.after_rdxStep {i : Inputs} {a' b' : Act} (hf : s.fsm = .rdx) (hab : SameCycle a.st b.st)
    (hcnt : a.st.rawcnt = s.rawcnt) (hu : a.st.mem.wf) (hv : b.st.mem.wf)
    (ha : rdxStep s i a = .ok a') (hb : rdxStep t i b = .ok b') : SameCycle a'.st b'.st := by
  have hdl : t.dlcnt = s.dlcnt := h.dlcnt hf
  simp only [rdxStep, h.rawcnt, h.readLength_eq, hdl, h.op, h.cfg] at ha hb
  by_cases hfull : s.rawcnt = readLength s
  · rw [if_pos hfull] at ha hb
    cases ha; cases hb; exact h.after_rdxFull hab
  by_cases hlate : s.dlcnt = 0#32
  · rw [if_neg hfull, if_pos hlate] at ha hb
    cases ha; cases hb; exact h.after_raiseError hab _ _
  rw [if_neg hfull, if_neg hlate] at ha hb
  cases hrx : i.rxSt <;> simp only [hrx] at ha hb
  case none => cases ha; cases hb; exact h.after_countDeadline hf i hab
  case byte =>
    split_ifs at ha hb with hcap
    cases ha; cases hb
    rw [← hcnt] at hcap ⊢
    exact h.after_countDeadline hf i (hab.after_byte hu hv (hcap.trans_le s.cfg.rawCap_le) _)
  case eos => cases ha; cases hb; split_ifs <;> exact h.after_complete hab _ _ _
  case err => cases ha; cases hb; exact h.after_raiseError hab _ _

theorem SameCycle.after_decCycle (hr : s.rawcnt.toNat ≤ s.cfg.rawCap) (hab : SameCycle a.st b.st)
    (hcnt : a.st.rawcnt = s.rawcnt) (hu : a.st.mem.wf) (hv : b.st.mem.wf) :
    SameCycle (decCycle s a).st (decCycle t b).st := by
  simp only [decCycle, h.rawFrame_eq]
  exact h.after_decodeInto (a := { a with st := unstuffInto s a.st }) (b := { b with st := unstuffInto t b.st })
    (h.after_unstuffInto hr hab hcnt hu hv) _

theorem SameCycle.after_decStep {a' b' : Act} (hab : SameCycle a.st b.st) (hcnt : a.st.rawcnt = s.rawcnt)
    (hu : a.st.mem.wf) (hv : b.st.mem.wf) (ha : decStep s a = .ok a') (hb : decStep t b = .ok b') :
    SameCycle a'.st b'.st := by
  have hd := (h.op_ne (o := .decode)).1
  have hn := (h.op_ne (o := .unstuff)).1
  simp only [decStep, h.op, h.rawcnt, h.cfg, if_neg hd, if_neg hn] at ha hb
  split_ifs at ha hb with hr
  cases ha; cases hb
  exact h.after_decCycle hr hab hcnt hu hv

/-- The state machine keeps the machines in the same cycle: a cycle is in `TXR`, `DRN`, `RDX` or `DEC` (R23, R180). -/
theorem SameCycle.after_fsmStep {i : Inputs} {a' b' : Act} (hs : Inv s) (ht : Inv t)
    (ha : fsmStep s i (startAct s) = .ok a') (hb : fsmStep t i (startAct t) = .ok b') : SameCycle a'.st b'.st := by
  have hstart := h.after_startAct
  have hcnt := startAct_rawcnt s
  have hu := hs.startAct.buffers.mem_wf
  have hv := ht.startAct.buffers.mem_wf
  have hstate : s.fsm = .idle ∨ s.fsm = .exited ∨ s.fsm = .txr ∨ s.fsm = .drn ∨ s.fsm = .rdx ∨ s.fsm = .dec := by
    rcases h.cycle with hop | hop
    · exact legalPair_sample.1 (hop ▸ hs.control.pair)
    · exact (hs.control.op_none.1 hop).imp_right .inl
  simp only [fsmStep, h.fsm, h.op, if_pos hs.control.pair] at ha hb
  rcases hstate with hf | hf | hf | hf | hf | hf <;> simp only [hf] at ha hb
  · cases ha; cases hb; exact hstart
  · cases ha; cases hb; exact hstart
  · exact h.after_txrStep hf hstart ha hb
  · cases ha; cases hb; exact h.after_drnStep hstart i
  · exact h.after_rdxStep hf hstart hcnt hu hv ha hb
  · exact h.after_decStep hstart hcnt hu hv ha hb

/-- A step on the same inputs, without reset or host write, keeps the machines in the same cycle. -/
theorem SameCycle.after_step {s' t' : State} (hs : Inv s) (ht : Inv t) (hq : HostQuiet s) (hin : t.input = s.input)
    (hs' : step s = .next s') (ht' : step t = .next t') : SameCycle s' t' := by
  rw [step_quiet hq] at hs'
  rw [step_quiet (by rwa [HostQuiet, hin])] at ht'
  obtain ⟨a, ha, rfl⟩ := clockStep_next hs'
  obtain ⟨b, hb, rfl⟩ := clockStep_next ht'
  rw [hin] at hb
  exact { h.after_fsmStep hs ht ha hb with }

/-- The outputs that a cycle drives are the same (R45, R46). -/
theorem SameCycle.outputs_eq (i : Inputs) :
    txValid t = txValid s ∧ txData t = txData s ∧ rxTake t i = rxTake s i := by
  refine ⟨by rw [txValid, txValid, h.fsm], ?_, ?_⟩
  · by_cases hv : txValid s = true
    · rw [txData, txData, h.fsm, h.txi hv]
    · have hnot : s.fsm ≠ .txs ∧ s.fsm ≠ .txr := by simpa [txValid] using hv
      rw [txData_other hnot.1 hnot.2, txData_other (h.fsm ▸ hnot.1) (h.fsm ▸ hnot.2)]
  · simp only [rxTake, h.fsm]
    cases hf : s.fsm with
    | rdx => simp only [h.rawcnt, h.readLength_eq, h.dlcnt hf]
    | _ => rfl

end

/-! ### The start of a cycle, and runs -/

/-- A step in which the host writes a command word, by its inputs (R67). -/
theorem hostWritesWord_of_hostCommand {i : Inputs} {w : Word} (hr : i.rst = false) (hc : hostCommand i = some w)
    (s : State) : HostWritesWord (s.present i) 0x00 w := by
  unfold hostCommand at hc
  split_ifs at hc with hw
  exact ⟨hr, hw.1, hw.2, Option.some.inj hc⟩

/-- The step that accepts `SAMPLE` leaves what its accept sequence leaves (R97, R181). -/
theorem step_sample {s : State} (hw : HostWritesWord s 0x00 (encode .sample)) (hf : s.fsm = .idle) :
    step s = .next (acceptSequence s .sample (ticked s)) := by
  rw [step_command hw (encodeThenDecodeIsIdentity s.cfg.rawCap .sample rfl), exec_eq_commandStep (i := .sample) rfl nofun,
    commandStep_idle hf (by simp)]

/-- Two machines with the same parameters and `DEADLINE` that accept `SAMPLE` are in the same cycle. -/
theorem SameCycle.start {s t : State} (hcfg : t.cfg = s.cfg) (hdl : t.deadline = s.deadline) :
    SameCycle (acceptSequence s .sample (ticked s)) (acceptSequence t .sample (ticked t)) := by
  constructor <;> simp [acceptSequence, txValid, hcfg, hdl]

end Sys2Proof.Machine

namespace Sys2Proof.Safety

open Sys2Proof.Machine

/-- The invariants do not look at the inputs to come. -/
theorem Inv.present {s : State} (h : Inv s) (i : Inputs) : Inv (s.present i) :=
  ⟨h.buffers.congr rfl rfl rfl rfl, h.control.congr rfl rfl rfl rfl rfl rfl rfl rfl rfl,
    h.outcome.congr rfl rfl rfl rfl rfl rfl rfl rfl⟩

/-- Every state of a run meets the invariants when the first does. -/
theorem Follows.inv {I : Nat → Inputs} {S : Nat → State} (h : Follows I S) (h0 : Inv (S 0)) (k : Nat) : Inv (S k) := by
  induction k with
  | zero => exact h0
  | succ k ih => exact step_inv (ih.present (I k)) (h k)

end Sys2Proof.Safety

open Sys2Proof Sys2Proof.Machine in
/-- Settles O43: the step stores the unstuffed frame from cell 0 of `UNS` on and decodes what follows its header. -/
theorem cycleDecodeStepUnstuffsAndDecodes : Obligations.CycleDecodeStepUnstuffsAndDecodes := by
  intro s hq hf hop hr hm u p
  have hop' : (unstuffInto s (Safety.ticked s)).op = s.op := by simp
  have hread : ∀ a, (Act.finish s 0 (decodeInto s p ⟨unstuffInto s (Safety.ticked s), 0⟩)).mem.read a =
      if 0x80 ≤ a ∧ a < 0x80 + u.length then u.getD (a - 0x80) 0 else s.mem.read a := fun a => by
    rw [Act.finish_mem, (decodeInto_reading s p _).1, unstuffInto_read (by simpa using hm), startAct_mem]
  refine ⟨_, step_cycle hq hf hop hr, fun j hj => ?_, fun a ha => ?_, fun hp => ?_, fun hp => ?_⟩
  · rw [State.uns, hread, unsBase, if_pos (by omega), Nat.add_sub_cancel_left]
  · rw [hread, if_neg (by omega)]
  · rw [finish_decodeInto_short hop' hp]
    simp [Safety.raised, unstuffInto, u]
  · rw [finish_decodeInto_some hop' (decodePayload_some hp)]
    exact ⟨decodePayload_some hp, by simp [Safety.readingTaken, unstuffInto, u]⟩

open Sys2Proof Sys2Proof.Machine in
/-- Settles O52, by induction on the step: the two machines stay in the same cycle, and so agree on all that is shown. -/
theorem sampleCycleIsSelfContained : Obligations.SampleCycleIsSelfContained := by
  intro I S T hS hT hinvS hinvT hrst hhost hfS hfT hcfg hdl hcmd k
  have hsame : SameCycle (S (k + 1)) (T (k + 1)) := by
    induction k with
    | zero =>
      have hnext : ∀ {s s' : State}, s.fsm = .idle → stepWith (I 0) s = .next s' →
          s' = acceptSequence (s.present (I 0)) .sample (Safety.ticked (s.present (I 0))) := fun hf hstep =>
        Host.Outcome.next.inj (hstep.symm.trans (step_sample (hostWritesWord_of_hostCommand (hrst 0) hcmd _) hf))
      rw [hnext hfS (hS 0), hnext hfT (hT 0)]
      exact SameCycle.start hcfg.symm hdl.symm
    | succ k ih =>
      have hpresent : SameCycle ((S (k + 1)).present (I (k + 1))) ((T (k + 1)).present (I (k + 1))) := { ih with }
      exact hpresent.after_step ((hS.inv hinvS _).present _) ((hT.inv hinvT _).present _)
        ⟨hrst (k + 1), hhost (k + 1) (by omega)⟩ rfl (hS (k + 1)) (hT (k + 1))
  obtain ⟨hvalid, hdata, htake⟩ := hsame.outputs_eq (I (k + 1))
  exact ⟨hsame.fsm.symm, hsame.result.symm, hsame.rawFrame_eq.symm, hsame.rdvalid.symm,
    fun hv => (hsame.rd hv).symm, hvalid.symm, hdata.symm, htake.symm⟩

/-! The sampling loop family (43_sampling_loop.md): the steps of the loop's own states, `STOP`, and `EXITED`. -/

open Sys2Proof Sys2Proof.Machine in
/-- Settles O46: `SETTLE` counts `TMR` down by ticks, and its last step starts the ticker. -/
theorem settleStepStartsTheTicker : Obligations.SettleStepStartsTheTicker := by
  intro s hq hf hop
  have hstep : step s = .next (Act.finish s 0 (settleStep s s.input ⟨Safety.ticked s, 0⟩)) :=
    step_quiet_ok hq (by simp [fsmStep, hf, hop, legalPair])
  refine ⟨fun (h0 : s.tmr = 0#32) => ?_, fun (h0 : s.tmr ≠ 0#32) htick => ?_,
    fun (h0 : s.tmr ≠ 0#32) htick => ?_⟩ <;> rw [hstep, settleStep]
  · rw [if_pos h0, finish_of_unset (by simp)]
  · rw [if_neg h0, if_pos htick, finish_of_unset (by simp)]
  · rw [if_neg h0, if_neg (by simp [htick]), finish_of_unset (by simp)]

namespace Sys2Proof.Machine

open Sys2Proof.Safety

variable {s : State}

/-- In `WAITP` a pending tick is consumed: after the ticker's step one is pending exactly when the ticker fires (R205, R252). -/
theorem ticked_ptick_waitp (hf : s.fsm = .waitp) :
    (ticked s).ptick = decide (s.tken = true ∧ s.input.tick = true ∧ s.ptmr.toNat ≤ 1) := by
  simp [tickerConsumed, tickerFires, hf, Bool.and_assoc]

end Sys2Proof.Machine

open Sys2Proof Sys2Proof.Machine in
/-- Settles O47: a pending tick starts a sub-cycle, and the ticker's own rule consumes it. -/
theorem waitStepStartsASubCycle : Obligations.WaitStepStartsASubCycle := by
  intro s hq hf hop
  have hstep : step s = .next (Act.finish s 0 (waitpStep s ⟨Safety.ticked s, 0⟩)) :=
    step_quiet_ok hq (by simp [fsmStep, hf, hop, legalPair])
  refine ⟨fun hp => ?_, fun hp => ?_⟩ <;> rw [hstep, waitpStep]
  · rw [if_pos hp, finish_of_unset (by simp), ← ticked_ptick_waitp hf]
  · rw [if_neg (by simp [hp]), finish_of_unset (by simp)]

open Sys2Proof Sys2Proof.Machine in
/-- Settles O48: the reading stands at the sink port until the sink answers, `snk_fail` first. -/
theorem forwardStepWaitsForTheSink : Obligations.ForwardStepWaitsForTheSink := by
  intro s hq hf hop
  have hstep : step s = .next (Act.finish s 0 (fwdStep s.input ⟨Safety.ticked s, 0⟩)) :=
    step_quiet_ok hq (by simp [fsmStep, hf, hop, legalPair])
  refine ⟨⟨by simp [out, hf], fun i => snkData_field s i.isLt⟩, fun hfail => ?_, fun hfail hok => ?_,
    fun hfail hok => ?_⟩ <;> rw [hstep, fwdStep]
  · rw [if_pos hfail, finish_zero]
    simp [report, Act.set, ipError]
  · rw [if_neg (by simp [hfail]), if_pos hok, finish_of_unset (by simp)]
  · rw [if_neg (by simp [hfail]), if_neg (by simp [hok]), finish_of_unset (by simp)]

open Sys2Proof Sys2Proof.Machine in
/-- Settles O49: `COOL` counts `TMR` down by ticks and ends in `LIVE`, which goes back to `WAITP` in one step. -/
theorem cooldownAndLivenessSteps : Obligations.CooldownAndLivenessSteps := by
  intro s hq hop
  have hcool (hf : s.fsm = .cool) : step s = .next (Act.finish s 0 (coolStep s s.input ⟨Safety.ticked s, 0⟩)) :=
    step_quiet_ok hq (by simp [fsmStep, hf, hop, legalPair])
  have hlive (hf : s.fsm = .live) : step s = .next (Act.finish s 0 (liveStep ⟨Safety.ticked s, 0⟩)) :=
    step_quiet_ok hq (by simp [fsmStep, hf, hop, legalPair])
  refine ⟨by simp [out], fun hf (h0 : s.tmr = 0#32) => ?_, fun hf (h0 : s.tmr ≠ 0#32) htick => ?_,
    fun hf (h0 : s.tmr ≠ 0#32) htick => ?_, fun hf => ?_⟩
  · rw [hcool hf, coolStep, if_pos h0, finish_of_unset (by simp)]
  · rw [hcool hf, coolStep, if_neg h0, if_pos htick, finish_of_unset (by simp)]
  · rw [hcool hf, coolStep, if_neg h0, if_neg (by simp [htick]), finish_of_unset (by simp)]
  · rw [hlive hf, finish_zero]
    simp [liveStep, Act.set, ipLive]

open Sys2Proof Sys2Proof.Machine in
/-- Settles O20: an accepted `STOP` starts from the pre-step state, not from what the ticker and the state machine wrote. -/
theorem stopDiscardsTheStepAndExits : Obligations.StopDiscardsTheStepAndExits := by
  refine ⟨fun s hop => ?_, fun s t hop hq => (if_neg hop).trans (rejectStep_of_quiet hq)⟩
  have haccepted : exec .stop s = .next (Act.finish s 0 (stopAct s)) := if_pos hop
  rw [haccepted, finish_zero]
  simp [stopAct, clearEvent, ipExited]

namespace Sys2Proof.Machine

open Sys2Proof.Safety

variable {s : State}

/-! ### `EXITED` (R212) -/

/-- Outside `IDLE` and `RUN` every operation is rejected (R95). -/
theorem exec_rejected (hf : s.fsm ≠ .idle) (hop : s.op ≠ .run) (i : Instr) : exec i s = rejectStep s := by
  cases i with
  | stop => exact if_neg hop
  | readx n =>
    rw [exec, execReadx]
    split
    · exact if_neg hf
    · rfl
  | _ => exact if_neg hf

/-- Outside `IDLE` and `RUN` every word written to `CMD` is rejected, reserved or not (R94, R95). -/
theorem step_command_rejected (hf : s.fsm ≠ .idle) (hop : s.op ≠ .run) {w : Word} (hw : HostWritesWord s 0x00 w) :
    step s = rejectStep s := by
  cases hd : decode s.cfg.rawCap w with
  | ok i => rw [step_command hw hd, exec_rejected hf hop]
  | error e => exact step_reserved hw hd

/-- Outside `IDLE` and `RUN` a step without reset is a step of the clock with a host's part: no `STOP` is accepted. -/
theorem step_eq_clockStep (hf : s.fsm ≠ .idle) (hop : s.op ≠ .run) (hr : s.input.rst = false) :
    ∃ w host, HostPart s w host ∧ step s = clockStep s w host := by
  by_cases hw : hostWrites s.input = true
  · by_cases hidx : s.input.hWidx = 0#8
    · exact ⟨_, _, .reject, step_command_rejected hf hop ⟨hr, hw, hidx, rfl⟩⟩
    · exact ⟨_, _, .write, by simp [step, hr, hostCommand, hw, hidx, writeStep]⟩
  · exact ⟨_, _, .quiet, step_quiet ⟨hr, by simpa using hw⟩⟩

/-- In `EXITED` the state machine writes nothing (R212). -/
theorem clockStep_exited (hf : s.fsm = .exited) (w : BitVec 7) (host : Act → Act) :
    clockStep s w host = .next (Act.finish s w (host ⟨ticked s, 0⟩)) :=
  clockStep_ok (by simp [fsmStep, hf, legalPair, startAct_eq]) w host

end Sys2Proof.Machine

open Sys2Proof Sys2Proof.Machine in
/-- Settles O8: in `EXITED` no operation is in progress, so a step writes what the host's part writes outside `IDLE`, and no
more: `IE` and bits of `IP`. -/
theorem exitedIsTerminal : Obligations.ExitedIsTerminal := by
  intro s hinv hf
  have hidle : s.fsm ≠ .idle := by simp [hf]
  have hop : s.op ≠ .run := by simp [hinv.op_none.2 (.inr hf)]
  obtain ⟨htken, -⟩ := hinv.ticker_off fun h => absurd h hop
  refine ⟨htken, fun hr => ?_, fun hr => ⟨_, if_pos hr, rfl⟩, fun i => ?_⟩
  · obtain ⟨w1c, host, hp, hstep⟩ := step_eq_clockStep hidle hop hr
    obtain ⟨t, ht⟩ : ∃ t, step s = .next t := ⟨_, hstep.trans (clockStep_exited hf w1c host)⟩
    have leaves {m : BitVec 7} {h : Act → Act} (hs : step s = clockStep s m h) :
        t = Act.finish s m (h ⟨Safety.ticked s, 0⟩) :=
      Host.Outcome.next.inj (ht.symm.trans (hs.trans (clockStep_exited hf m h)))
    have rejected (hs : step s = rejectStep s) : t.ip = s.ip ||| 0x40 ∧ t.ie = s.ie := by
      rw [leaves hs, finish_zero]
      simp [Act.reject, Act.set, ipRej]
    refine ⟨t, ht, ?_, fun w hw => rejected (step_command_rejected hidle hop hw), fun idx w hw hg => ?_, fun w hw => ?_,
      fun w hw => ?_, fun hq => ?_⟩
    · obtain ⟨ie, hst⟩ := hp.busy_st hidle ⟨Safety.ticked s, 0⟩
      rw [leaves hstep, Act.finish, hst, ticked_off htken (by simp [hf])]
      simp
    · obtain ⟨h0, h6⟩ := ne_of_idleGated hg
      exact rejected (by rw [step_write_unmasked hw h0 h6, hostStore_of_busy hg hidle, rejectStep])
    · rw [leaves (step_write_unmasked hw (by decide) (by decide)), hostStore_ie]
      exact ⟨composeIp_quiet s.ip, rfl⟩
    · rw [leaves (step_write hw (by decide)), if_pos (by decide),
        hostStore_ignored (by rw [idleGated_iff]; simp) (by decide)]
      simp [composeIp]
    · rw [leaves (step_quiet hq)]
      exact ⟨composeIp_quiet s.ip, by simp⟩
  · exact ⟨by simp [out, txValid, hf], by simp [out, hf], by simp [out, hf], by simp [out, rxTake, hf], rfl,
      fun hsel hwe => by simp [out, readData, hsel, hwe]⟩

/-! The exceptions family (60_exceptions.md): a step by what the host does in it, said as an equation; the step is total, the
interrupt registers do not interfere, the ticker steps by itself, and the ways into `EXITED`. -/

namespace Sys2Proof.Machine

open Sys2Proof.Safety

/-! ### A step as an equation -/

/-- The host's part (R9 item 5) of a step that is neither a reset nor an accepted `STOP`. -/
def hostAction (s : State) (a : Act) : Act :=
  match hostCommand s.input with
  | some w =>
    match decode s.cfg.rawCap w with
    | .ok i => if s.fsm = .idle ∧ i ≠ .stop then { a with st := acceptSequence s i a.st } else a.reject
    | .error _ => a.reject
  | none => if hostWrites s.input then hostStore s s.input.hWidx s.input.hWdata a else a

/-- The accept sequences of the well-formed operations are those `Accepts` lists (R97). -/
theorem accepts_acceptSequence {s : State} {i : Instr} (hwf : i.wellFormed s.cfg.rawCap = true) (hi : i ≠ .stop) :
    Accepts s (acceptSequence s i) := by
  cases i with
  | txstart => exact .inl rfl
  | txreq => exact .inr (.inl rfl)
  | drain => exact .inr (.inr (.inl rfl))
  | readx n => exact .inr (.inr (.inr (.inl ⟨n, of_decide_eq_true hwf, rfl⟩)))
  | unstuff => exact .inr (.inr (.inr (.inr (.inl rfl))))
  | decode n => exact .inr (.inr (.inr (.inr (.inr (.inl ⟨n, rfl⟩)))))
  | sample => exact .inr (.inr (.inr (.inr (.inr (.inr (.inl rfl))))))
  | run => exact .inr (.inr (.inr (.inr (.inr (.inr (.inr rfl))))))
  | stop => contradiction

/-- A step in which the host does not write to `IP` clears no bit (R242). -/
theorem clearMask_eq_zero {i : Inputs} (h : hostWrites i = false ∨ i.hWidx = 0#8) : clearMask i = 0 := by
  rcases h with h | h <;> simp [clearMask, h]

/-- The host's part, by the command word's operation. -/
theorem hostAction_command {s : State} {w : Word} {i : Instr} (hc : hostCommand s.input = some w)
    (hd : decode s.cfg.rawCap w = .ok i) : hostAction s =
      if s.fsm = .idle ∧ i ≠ .stop then fun a => { a with st := acceptSequence s i a.st } else Act.reject := by
  funext a
  simp only [hostAction, hc, hd]
  split <;> rfl

/-- A reserved command word is rejected (R94). -/
theorem hostAction_reserved {s : State} {w : Word} {e : Reserved} (hc : hostCommand s.input = some w)
    (hd : decode s.cfg.rawCap w = .error e) : hostAction s = Act.reject := by
  funext a
  simp only [hostAction, hc, hd]

/-- Without a command the host writes a register or nothing. -/
theorem hostAction_noCommand {s : State} (hc : hostCommand s.input = none) : hostAction s =
    if hostWrites s.input then hostStore s s.input.hWidx s.input.hWdata else id := by
  funext a
  simp only [hostAction, hc]
  split <;> rfl

theorem step_reset {s : State} (hr : s.input.rst = true) : step s = .next (resetAct s) := if_pos hr

/-- An accepted `STOP` (R211). -/
theorem step_stop {s : State} (hop : s.op = .run) (hw : HostWritesWord s 0x00 0x00000009) :
    step s = .next (Act.finish s 0 (stopAct s)) :=
  (step_command hw (encodeThenDecodeIsIdentity s.cfg.rawCap .stop rfl)).trans (if_pos hop)

/-- Every other step is a step of the clock around the host's part, `hostAction`; only a write to `IP` clears bits (R9). -/
theorem step_clock {s : State} (hr : s.input.rst = false) (hs : ¬ (s.op = .run ∧ HostWritesWord s 0x00 0x00000009)) :
    step s = clockStep s (clearMask s.input) (hostAction s) ∧
      HostPart s (clearMask s.input) (hostAction s) := by
  cases hc : hostCommand s.input with
  | some w =>
    have hw : HostWritesWord s 0x00 w := hostWritesWord_of_hostCommand hr hc s
    have ⟨_, _, hidx, _⟩ := hw
    rw [clearMask_eq_zero (.inr hidx)]
    cases hd : decode s.cfg.rawCap w with
    | error e => rw [hostAction_reserved hc hd]; exact ⟨step_reserved hw hd, .reject⟩
    | ok i =>
      obtain ⟨hwf, rfl⟩ := decode_ok_iff.1 hd
      rw [step_command hw hd, hostAction_command hc hd]
      by_cases hi : i = .stop
      · subst hi
        rw [if_neg (by simp)]
        exact ⟨if_neg fun hop => hs ⟨hop, hw⟩, .reject⟩
      · rw [exec_eq_commandStep hwf hi, commandStep]
        by_cases hf : s.fsm = .idle
        · rw [if_pos hf, if_pos ⟨hf, hi⟩]
          exact ⟨rfl, .accept _ hf (accepts_acceptSequence hwf hi)⟩
        · rw [if_neg hf, if_neg (fun h => hf h.1)]
          exact ⟨rfl, .reject⟩
  | none =>
    have hstep : step s = if hostWrites s.input then writeStep s else quietStep s := by simp [step, hr, hc]
    rw [hstep, hostAction_noCommand hc]
    by_cases hw : hostWrites s.input = true
    · rw [if_pos hw, if_pos hw]; exact ⟨rfl, .write⟩
    · rw [if_neg hw, if_neg hw, clearMask_eq_zero (.inl (by simpa using hw))]; exact ⟨rfl, .quiet⟩

/-! ### The step of the state machine is total under the invariants (R23, R172, R253) -/

/-- In `RDX` the next byte has a cell: the length to read is at most `RAW_CAP`, and not yet reached (R172). -/
theorem rdx_room {s : State} (h : ControlInv s) (hf : s.fsm = .rdx) (hn : s.rawcnt ≠ readLength s) :
    s.rawcnt.toNat < s.cfg.rawCap := by
  have hcap := s.cfg.rawCap_ge
  have hne : s.rawcnt.toNat ≠ (readLength s).toNat := fun hc => hn (BitVec.eq_of_toNat_eq hc)
  by_cases hop : s.op = .readx
  · obtain ⟨hle, harg⟩ := h.rdx_readx hf hop
    simp only [readLength, if_pos hop] at hne
    omega
  · have hle : s.rawcnt.toNat ≤ 47 := h.rdx_cycle hf hop
    have hlen : (readLength s).toNat = 47 := by simp [readLength, hop, Config.frameLen]
    omega

theorem rdxStep_total {s : State} (h : ControlInv s) (hf : s.fsm = .rdx) (i : Inputs) (a : Act) :
    ∃ b, rdxStep s i a = .ok b := by
  unfold rdxStep
  by_cases hn : s.rawcnt = readLength s
  · exact ⟨_, if_pos hn⟩
  rw [if_neg hn]
  by_cases hd : s.dlcnt = 0#32
  · exact ⟨_, if_pos hd⟩
  rw [if_neg hd]
  cases i.rxSt with
  | byte => exact ⟨_, if_pos (rdx_room h hf hn)⟩
  | none | eos | err => exact ⟨_, rfl⟩

theorem decStep_total {s : State} (h : BufferInv s) (a : Act) : ∃ b, decStep s a = .ok b := by
  unfold decStep
  rw [if_pos h.unscnt_le, if_pos h.rawcnt_le]
  split <;> exact ⟨_, rfl⟩

/-- Under the invariants every state's step is defined: the pair of `FSM` and `OP` is listed, and every index exists. -/
theorem fsmStep_total {s : State} (h : Inv s) (i : Inputs) (a : Act) : ∃ b, fsmStep s i a = .ok b := by
  rw [fsmStep, if_pos h.control.pair]
  cases hf : s.fsm with
  | txs => exact ⟨_, txStep_ok (Nat.lt_succ_of_le (h.control.txs_txi hf)) i a⟩
  | txr => exact ⟨_, txStep_ok (Nat.lt_succ_of_le (h.control.txr_txi hf)) i a⟩
  | rdx => exact rdxStep_total h.control hf i a
  | dec => exact decStep_total h.buffers a
  | idle | drn | settle | waitp | fwd | cool | live | exited => exact ⟨_, rfl⟩

end Sys2Proof.Machine

open Sys2Proof.Machine Sys2Proof.Safety in
/-- Settles O4: a reset and an accepted `STOP` have a next state in every state; in any other step the invariants keep the
state machine's pair and its indices in range. -/
theorem stepIsTotal : Obligations.StepIsTotal := by
  intro s h
  by_cases hr : s.input.rst = true
  · exact ⟨_, step_reset hr⟩
  by_cases hs : s.op = .run ∧ HostWritesWord s 0x00 0x00000009
  · exact ⟨_, step_stop hs.1 hs.2⟩
  obtain ⟨hstep, -⟩ := step_clock (by simpa using hr) hs
  obtain ⟨a, ha⟩ := fsmStep_total h s.input (startAct s)
  exact ⟨_, hstep.trans (clockStep_ok ha _ _)⟩

namespace Sys2Proof.Machine

open Sys2Proof.Safety

/-! ### A step and the interrupt registers (R241) -/

/-- The clock step when the state machine has no step. -/
theorem clockStep_fault {s : State} {f : Fault} (h : fsmStep s s.input (startAct s) = .error f) (w : BitVec 7)
    (host : Act → Act) : clockStep s w host = .fault f := by
  rw [clockStep, h]

section
variable {s : State} {ie ip : BitVec 7}

theorem advance_irq : State.advance { s with ie := ie, ip := ip } = { s.advance with ie := ie, ip := ip } := by
  cases hs : s.script <;> simp only [State.advance, hs]

@[simp] theorem maskIrq_finish (w : BitVec 7) (a : Act) : maskIrq (Act.finish s w a) = maskIrq a.st := rfl

/-- The host's part of a step stores nothing that depends on `IE` or `IP`. -/
theorem HostPart.irq {w : BitVec 7} {host : Act → Act} (hp : HostPart s w host) (a : Act) :
    maskIrq (host (a.withIrq ie ip)).st = maskIrq (host a).st := by
  cases hp with
  | quiet => rfl
  | reject => rfl
  | accept eff _ hacc => rcases hacc with rfl | rfl | rfl | ⟨n, -, rfl⟩ | rfl | ⟨n, rfl⟩ | rfl | rfl <;> rfl
  | write =>
    simp only [hostStore, storeIdle]
    split_ifs <;> rfl

/-- A clock step with other interrupt registers differs only there: the state machine does not look at them. -/
theorem clockStep_irq {w : BitVec 7} {host : Act → Act} (hp : HostPart s w host) :
    maskOutcome (clockStep { s with ie := ie, ip := ip } w host) = maskOutcome (clockStep s w host) := by
  have hfsm : fsmStep { s with ie := ie, ip := ip } s.input (startAct { s with ie := ie, ip := ip }) =
      (fsmStep s s.input (startAct s)).map (Act.withIrq ie ip) := by
    rw [fsmStep_irq, startAct_irq, fsmStep_withIrq]
  cases ha : fsmStep s s.input (startAct s) with
  | error f =>
    rw [ha] at hfsm
    rw [clockStep_fault hfsm, clockStep_fault ha]
  | ok a =>
    rw [ha] at hfsm
    rw [clockStep_ok hfsm, clockStep_ok ha]
    exact congrArg Host.Outcome.next (hp.irq a)

/-- A step of a state with other interrupt registers differs only there: the host's part is the same. -/
theorem step_irq : maskOutcome (step { s with ie := ie, ip := ip }) = maskOutcome (step s) := by
  by_cases hr : s.input.rst = true
  · rw [step_reset hr, step_reset (s := { s with ie := ie, ip := ip }) hr]
    simp [resetAct, advance_irq]
  by_cases hs : s.op = .run ∧ HostWritesWord s 0x00 0x00000009
  · rw [step_stop hs.1 hs.2, step_stop (s := { s with ie := ie, ip := ip }) hs.1 hs.2]
    simp only [maskOutcome, maskIrq_finish, stopAct, advance_irq]
    rfl
  have hr' : s.input.rst = false := by simpa using hr
  obtain ⟨hstep, hp⟩ := step_clock hr' hs
  obtain ⟨hstep', -⟩ := step_clock (s := { s with ie := ie, ip := ip }) hr' hs
  rw [hstep, hstep']
  exact clockStep_irq hp

end

end Sys2Proof.Machine

open Sys2Proof.Machine Sys2Proof.Safety in
/-- Settles O6: the step and the outputs are worked out without a look at `IE` and `IP`; only `irq` and a host's read show
them. -/
theorem interruptRegistersDoNotInterfere : Obligations.InterruptRegistersDoNotInterfere :=
  ⟨fun s _ => irq_iff s, fun _ _ _ => ⟨step_irq, fun _ => rfl⟩⟩

namespace Sys2Proof.Machine

open Sys2Proof.Safety

/-! ### The ticker's registers (R252) -/

/-- The ticker's registers are the same. -/
def SameTicker (t u : State) : Prop := u.ptmr = t.ptmr ∧ u.ptick = t.ptick

theorem complete_ticker (s : State) (k : Kind) (e : ErrCode) (c : Byte) (a : Act) :
    SameTicker a.st (complete s k e c a).st := by
  obtain ⟨_, _, _, heq⟩ := complete_frame s k e c a
  rw [heq]
  exact ⟨rfl, rfl⟩

theorem decodeInto_ticker (s : State) (p : List Byte) (a : Act) : SameTicker a.st (decodeInto s p a).st := by
  by_cases hp : p.length < 40
  · rw [decodeInto_short hp]
    exact complete_ticker s _ _ _ (report _ _ { a with st := { a.st with rdvalid := false } })
  · rw [decodeInto_full (by omega)]
    exact complete_ticker s _ _ _ { a with st := { a.st with rd := reading s.cfg p, rdvalid := true } }

/-- Of the state machine's steps only the last of `SETTLE` writes the ticker's registers (R203). -/
theorem FsmEffect.ticker {s : State} {i : Inputs} {a b : Act} (hb : FsmEffect s i a b) (hf : s.fsm ≠ .settle) :
    SameTicker a.st b.st := by
  cases hb with
  | tickerStarted hset => exact absurd hset hf
  | frameSent => exact complete_ticker s _ _ _ { a with st := { a.st with txi := s.txi + 1 } }
  | completed => exact complete_ticker s _ _ _ a
  | raised => exact complete_ticker s _ _ _ (report _ _ a)
  | unstuffed => exact complete_ticker s _ _ _ { a with st := unstuffInto s a.st }
  | decoded => exact decodeInto_ticker s _ a
  | cycleDecoded => exact decodeInto_ticker s _ { a with st := unstuffInto s a.st }
  | startFailed => rw [fatal_eq]; exact ⟨rfl, rfl⟩
  | _ => simp [SameTicker, liveStep, report]

theorem settleStep_ticker {s : State} (h0 : s.tmr ≠ 0#32) (i : Inputs) (a : Act) :
    SameTicker a.st (settleStep s i a).st := by
  rw [settleStep, if_neg h0]
  split <;> exact ⟨rfl, rfl⟩

theorem fsmStep_ticker {s : State} {i : Inputs} {a b : Act} (h : fsmStep s i a = .ok b)
    (hlast : ¬ (s.fsm = .settle ∧ s.tmr = 0)) : SameTicker a.st b.st := by
  by_cases hf : s.fsm = .settle
  · rw [fsmStep, hf] at h
    split at h
    · obtain rfl := Except.ok.inj h
      exact settleStep_ticker (fun h0 => hlast ⟨hf, h0⟩) i a
    · cases h
  · exact (fsmStep_effect h).ticker hf

/-- The host writes neither of the ticker's registers. -/
theorem HostPart.ticker {s : State} {w : BitVec 7} {host : Act → Act} (hp : HostPart s w host) (a : Act) :
    SameTicker a.st (host a).st := by
  cases hp with
  | quiet => exact ⟨rfl, rfl⟩
  | reject => exact ⟨rfl, rfl⟩
  | accept eff _ hacc =>
    rcases hacc with rfl | rfl | rfl | ⟨n, -, rfl⟩ | rfl | ⟨n, rfl⟩ | rfl | rfl <;> exact ⟨rfl, rfl⟩
  | write =>
    rcases hostStore_st s s.input.hWidx s.input.hWdata a with ⟨-, heq⟩ | ⟨ie, heq⟩
    · obtain ⟨_, _, _, _, hfr⟩ := storeIdle_frame s.cfg.rawCap s.input.hWidx s.input.hWdata a.st
      rw [heq, hfr]
      exact ⟨rfl, rfl⟩
    · rw [heq]
      exact ⟨rfl, rfl⟩

/-- What a step has written before the state machine steps, written out (R237, R252). -/
theorem ticked_eq (s : State) : ticked s =
    { s.advance with
      ev := { s.ev with valid := false }
      ptmr := if s.tken = true ∧ s.input.tick = true then
          (if s.ptmr.toNat ≤ 1 then s.cfg.tPeriod else s.ptmr - 1) else s.ptmr
      ptick := decide ((s.tken = true ∧ s.input.tick = true ∧ s.ptmr.toNat ≤ 1) ∨
        (s.ptick = true ∧ ¬ s.fsm = .waitp)) } := by
  have hptmr : (ticked s).ptmr = if s.tken = true ∧ s.input.tick = true then
      (if s.ptmr.toNat ≤ 1 then s.cfg.tPeriod else s.ptmr - 1) else s.ptmr := by
    rw [startAct_ptmr, tickerFires]
    by_cases hon : s.tken = true ∧ s.input.tick = true
    · simp [hon.1, hon.2]
    · rw [if_neg hon, if_neg (by simp; tauto), if_neg (by simpa using hon)]
  have hptick : (ticked s).ptick = decide ((s.tken = true ∧ s.input.tick = true ∧ s.ptmr.toNat ≤ 1) ∨
      (s.ptick = true ∧ ¬ s.fsm = .waitp)) := by
    rw [startAct_ptick, tickerFires, tickerConsumed]
    cases s.ptick <;> simp [Bool.and_assoc]
  rw [← hptmr, ← hptick, ← State.advance_ev]
  rfl

end Sys2Proof.Machine

open Sys2Proof.Machine in
/-- Settles O5: outside a reset, an accepted `STOP` and the last step of `SETTLE` neither the state machine nor the host
writes `PTMR` or `PTICK` after the ticker. -/
theorem tickerStepsByItself : Obligations.TickerStepsByItself := by
  refine ⟨ticked_eq, fun s t h hr hs hlast => ?_⟩
  obtain ⟨hstep, hp⟩ := step_clock hr hs
  obtain ⟨a, ha, rfl⟩ := clockStep_next (hstep.symm.trans h)
  obtain ⟨hptmr, hptick⟩ := fsmStep_ticker ha hlast
  obtain ⟨hhptmr, hhptick⟩ := hp.ticker a
  exact ⟨hhptmr.trans hptmr, hhptick.trans hptick⟩

namespace Sys2Proof.Machine

open Sys2Proof.Safety

/-! ### The ways into `EXITED` (R249) -/

theorem complete_fsm_ne_exited (s : State) (k : Kind) (e : ErrCode) (c : Byte) (a : Act) :
    (complete s k e c a).st.fsm ≠ .exited := by
  by_cases hr : s.op = .run
  · cases k <;> simp [complete, hr]
  · simp [complete_oneShot hr]

theorem decodeInto_fsm_ne_exited (s : State) (p : List Byte) (a : Act) : (decodeInto s p a).st.fsm ≠ .exited := by
  by_cases hp : p.length < 40
  · rw [decodeInto_short hp]; exact complete_fsm_ne_exited s _ _ _ _
  · rw [decodeInto_full (by omega)]; exact complete_fsm_ne_exited s _ _ _ _

/-- The only effect that enters `EXITED` is the failed start command (R238). -/
theorem FsmEffect.exited {s : State} {i : Inputs} {a b : Act} (hb : FsmEffect s i a b) (ha : a.st.fsm ≠ .exited)
    (hexit : b.st.fsm = .exited) : s.fsm = .txs ∧ b = fatal .sensorStartFailed (s.txi.setWidth 8) a := by
  cases hb with
  | startFailed hf => exact ⟨hf, rfl⟩
  | frameSent | completed | raised | unstuffed => exact absurd hexit (complete_fsm_ne_exited s _ _ _ _)
  | decoded | cycleDecoded => exact absurd hexit (decodeInto_fsm_ne_exited s _ _)
  | _ => simp [liveStep, ha] at hexit

theorem txDone_fsm_ne_exited (s : State) (a : Act) : (txDone s a).st.fsm ≠ .exited := by
  unfold txDone
  split_ifs
  · simp
  · exact complete_fsm_ne_exited s _ _ _ a
  · exact complete_fsm_ne_exited s _ _ _ a
  · simp

/-- While no write fails, sending a command frame does not enter `EXITED` (R124). -/
theorem txStep_fsm_ne_exited {len : Nat} {s : State} {i : Inputs} {a b : Act} (h : txStep len s i a = .ok b)
    (he : i.txErr = false) (ha : a.st.fsm ≠ .exited) : b.st.fsm ≠ .exited := by
  have hx : s.txi.toNat < len := by
    by_contra hn; simp [txStep, not_lt.1 hn] at h
  rw [txStep_ok hx, he, if_neg Bool.false_ne_true] at h
  obtain rfl := Except.ok.inj h
  split_ifs
  · exact txDone_fsm_ne_exited s _
  · exact ha
  · exact ha

/-- The state machine enters `EXITED` only by a failed byte of the start command. -/
theorem fsmStep_exited {s : State} {i : Inputs} {a b : Act} (h : fsmStep s i a = .ok b) (ha : a.st.fsm ≠ .exited)
    (hexit : b.st.fsm = .exited) :
    s.fsm = .txs ∧ i.txErr = true ∧ b = fatal .sensorStartFailed (s.txi.setWidth 8) a := by
  obtain ⟨hf, hb⟩ := (fsmStep_effect h).exited ha hexit
  refine ⟨hf, ?_, hb⟩
  by_contra he
  rw [fsmStep, hf] at h
  split at h
  · exact txStep_fsm_ne_exited h (by simpa using he) ha hexit
  · cases h

/-- The host's part enters no `EXITED`: an accept sequence starts an operation, and no register write stores `FSM`. -/
theorem HostPart.fsm_ne_exited {s : State} {w : BitVec 7} {host : Act → Act} (hp : HostPart s w host) {a : Act}
    (ha : a.st.fsm ≠ .exited) : (host a).st.fsm ≠ .exited := by
  cases hp with
  | quiet => exact ha
  | reject => exact ha
  | accept eff _ hacc =>
    rcases hacc with rfl | rfl | rfl | ⟨n, -, rfl⟩ | rfl | ⟨n, rfl⟩ | rfl | rfl <;> nofun
  | write =>
    rcases hostStore_st s s.input.hWidx s.input.hWdata a with ⟨-, heq⟩ | ⟨ie, heq⟩
    · obtain ⟨_, _, _, _, hfr⟩ := storeIdle_frame s.cfg.rawCap s.input.hWidx s.input.hWdata a.st
      rwa [heq, hfr]
    · rwa [heq]

/-- After the fatal sequence the host's part leaves what the sequence wrote: FDTR is not in `IDLE`. -/
theorem HostPart.fatal_st {s : State} {w : BitVec 7} {host : Act → Act} (hp : HostPart s w host) (hf : s.fsm ≠ .idle)
    (e : ErrCode) (c : Byte) (a : Act) :
    (host (fatal e c a)).st.fsm = .exited ∧ (host (fatal e c a)).st.exitcode = true ∧
      (host (fatal e c a)).st.result = ⟨.error, e, c⟩ := by
  obtain ⟨ie, hst⟩ := hp.busy_st hf (fatal e c a)
  rw [hst]
  exact ⟨rfl, rfl, rfl⟩

/-- A step that is neither a reset nor an accepted `STOP` enters `EXITED` only by the fatal sequence, with code 1. -/
theorem clockStep_enters_exited {s t : State} {w : BitVec 7} {host : Act → Act} (hp : HostPart s w host)
    (h : clockStep s w host = .next t) (hs : s.fsm ≠ .exited) (ht : t.fsm = .exited) :
    t.exitcode = true ∧ s.fsm = .txs ∧ s.input.txErr = true ∧
      t.result = ⟨.error, .sensorStartFailed, s.txi.setWidth 8⟩ := by
  obtain ⟨a, ha, rfl⟩ := clockStep_next h
  have hexit : a.st.fsm = .exited := by
    by_contra hn
    exact hp.fsm_ne_exited hn ht
  obtain ⟨hf, he, rfl⟩ := fsmStep_exited ha (by simpa using hs) hexit
  obtain ⟨-, hcode, hres⟩ := hp.fatal_st (by simp [hf]) .sensorStartFailed (s.txi.setWidth 8) (startAct s)
  exact ⟨hcode, hf, he, hres⟩

theorem fsmStep_startFailed {s : State} {i : Inputs} (h : ControlInv s) (hf : s.fsm = .txs) (he : i.txErr = true)
    (a : Act) : fsmStep s i a = .ok (fatal .sensorStartFailed (s.txi.setWidth 8) a) := by
  have hfsm : fsmStep s i a = txStep Config.startLen s i a := by rw [fsmStep, if_pos h.pair, hf]
  have hx : s.txi.toNat < Config.startLen := Nat.lt_succ_of_le (h.txs_txi hf)
  rw [hfsm, txStep_ok hx, if_pos he, if_pos hf]

/-- A failed byte of the start command enters `EXITED` with code 1 (R238). -/
theorem clockStep_startFailed {s : State} {w : BitVec 7} {host : Act → Act} (hp : HostPart s w host)
    (hc : ControlInv s) (hf : s.fsm = .txs) (he : s.input.txErr = true) :
    ∃ t, clockStep s w host = .next t ∧ t.fsm = .exited ∧ t.exitcode = true := by
  obtain ⟨hexit, hcode, -⟩ := hp.fatal_st (by simp [hf]) .sensorStartFailed (s.txi.setWidth 8) (startAct s)
  exact ⟨_, clockStep_ok (fsmStep_startFailed hc hf he _) w host, hexit, hcode⟩

end Sys2Proof.Machine

open Sys2Proof.Machine Sys2Proof.Safety in
/-- Settles O9: a reset leaves `IDLE`, an accepted `STOP` leaves code 0, and of the state machine's steps only the fatal
sequence enters `EXITED`. -/
theorem exitCodesAreZeroForStopAndOneForStartFailure : Obligations.ExitCodesAreZeroForStopAndOneForStartFailure := by
  refine ⟨fun s t h hs ht => ?_, fun s hop hw => ⟨_, step_stop hop hw, rfl, rfl⟩, fun s hc hf he hr hs => ?_⟩
  · by_cases hr : s.input.rst = true
    · obtain rfl := Host.Outcome.next.inj ((step_reset hr).symm.trans h)
      cases ht
    by_cases hstop : s.op = .run ∧ HostWritesWord s 0x00 0x00000009
    · obtain rfl := Host.Outcome.next.inj ((step_stop hstop.1 hstop.2).symm.trans h)
      exact .inl ⟨rfl, hstop⟩
    · obtain ⟨hstep, hp⟩ := step_clock (by simpa using hr) hstop
      exact .inr (clockStep_enters_exited hp (hstep.symm.trans h) hs ht)
  · obtain ⟨hstep, hp⟩ := step_clock hr hs
    rw [hstep]
    exact clockStep_startFailed hp hc hf he

/-! The reset and hazards family (70_reset_and_hazards.md): under the fairness premises every run comes to rest, and what a
reset leaves. -/

namespace Sys2Proof.Machine

open Sys2Proof.Safety

variable {s t : State} {i : Inputs}

/-! ### A measure of what is left to do (R283) -/

/-- How far a state is from rest, 0 in the states at rest: within an operation no step goes to a higher phase, save the step
from `LIVE`, which begins the next turn. -/
def phase : Fsm → Nat
  | .idle | .live | .exited => 0
  | .fwd | .cool => 1
  | .dec => 2
  | .rdx => 3
  | .txr => 4
  | .drn => 5
  | .waitp => 6
  | .settle => 7
  | .txs => 8

theorem phase_eq_zero {f : Fsm} : phase f = 0 ↔ f = .idle ∨ f = .exited ∨ f = .live := by
  cases f <;> simp [phase]

/-- How many bytes or ticks the state can still wait for: `TXI` counts up to the frame's length, the timers count down. -/
def waitLeft (s : State) : Nat :=
  match s.fsm with
  | .txs | .txr => 8 - s.txi.toNat
  | .rdx => s.dlcnt.toNat
  | .settle | .cool => s.tmr.toNat
  | .waitp => if s.ptick then 0 else s.ptmr.toNat
  | .idle | .drn | .dec | .fwd | .live | .exited => 0

/-- What is left to do: the phase, and then the wait within it. -/
def workLeft (s : State) : ℕ ×ₗ ℕ := toLex (phase s.fsm, waitLeft s)

/-- The input that state `f` waits for is there (R283). -/
def Helps (i : Inputs) : Fsm → Prop
  | .txs | .txr => i.txReady = true ∨ i.txErr = true
  | .drn => i.rxSt ≠ .byte
  | .rdx | .settle | .waitp | .cool => i.tick = true
  | .fwd => i.snkOk = true ∨ i.snkFail = true
  | .idle | .dec | .live | .exited => True

/-- There is less left to do in `t` than in `s`; or FDTR has waited in its state, and the input it waits for was missing. -/
def Advances (s : State) (i : Inputs) (t : State) : Prop :=
  workLeft t < workLeft s ∨ (t.fsm = s.fsm ∧ waitLeft t = waitLeft s ∧ ¬ Helps i s.fsm)

theorem Advances.of_phase (h : phase t.fsm < phase s.fsm) : Advances s i t :=
  .inl (Prod.Lex.toLex_lt_toLex.2 (.inl h))

theorem Advances.of_waitLeft (hf : t.fsm = s.fsm) (h : waitLeft t < waitLeft s) : Advances s i t :=
  .inl (Prod.Lex.toLex_lt_toLex.2 (.inr ⟨congrArg phase hf, h⟩))

/-! ### The completion sequences leave `FWD`, `COOL` or less to do -/

theorem complete_phase_le (s : State) (k : Kind) (e : ErrCode) (c : Byte) (a : Act) :
    phase (complete s k e c a).st.fsm ≤ 1 := by
  by_cases hr : s.op = .run
  · cases k <;> simp [complete, hr, phase]
  · simp [complete_oneShot hr, phase]

theorem raiseError_phase_le (s : State) (e : ErrCode) (c : Byte) (a : Act) :
    phase (raiseError s e c a).st.fsm ≤ 1 :=
  complete_phase_le s .error e c (report e c a)

theorem decodeInto_phase_le (s : State) (p : List Byte) (a : Act) : phase (decodeInto s p a).st.fsm ≤ 1 := by
  by_cases hp : p.length < 40
  · rw [decodeInto_short hp]; exact complete_phase_le s _ _ _ _
  · rw [decodeInto_full (by omega)]; exact complete_phase_le s _ _ _ _

/-! ### Each state's step advances (R124, R162, R168, R185, R203, R205, R208, R209) -/

theorem toNat_pred_lt {x : Word} (h : x ≠ 0#32) : (x - 1).toNat < x.toNat := by bv_omega

/-- The ticker writes what is left to do in `WAITP` only. -/
theorem waitLeft_ticked (hf : s.fsm ≠ .waitp) : waitLeft (ticked s) = waitLeft s := by
  simp only [waitLeft, startAct_fsm]
  cases h : s.fsm with
  | waitp => contradiction
  | _ => simp

/-- A state other than `WAITP` whose step writes nothing waits. -/
theorem Advances.of_missing (hf : s.fsm ≠ .waitp) (hi : ¬ Helps i s.fsm) : Advances s i (ticked s) :=
  .inr ⟨startAct_fsm s, waitLeft_ticked hf, hi⟩

theorem txDone_phase_lt (hf : s.fsm = .txs ∨ s.fsm = .txr) (a : Act) : phase (txDone s a).st.fsm < phase s.fsm := by
  unfold txDone
  split_ifs with hs hrun hreq
  · simp [hs, phase]
  · exact (complete_phase_le s _ _ _ a).trans_lt (by simp [hs, phase])
  · exact (complete_phase_le s _ _ _ a).trans_lt (by simp [hf.resolve_left hs, phase])
  · simp [hf.resolve_left hs, phase]

theorem txStep_advances {len : Nat} {b : Act} (hf : s.fsm = .txs ∨ s.fsm = .txr) (hx : s.txi.toNat < len)
    (hlen : len ≤ 8) (h : txStep len s i (startAct s) = .ok b) : Advances s i b.st := by
  have hphase : 1 < phase s.fsm := by rcases hf with hf | hf <;> simp [hf, phase]
  rw [txStep_ok hx] at h
  obtain rfl := Except.ok.inj h
  split_ifs with he hs hr hl
  · exact .of_phase (by simp [fatal_eq, hs, phase])
  · exact .of_phase ((raiseError_phase_le s _ _ _).trans_lt hphase)
  · exact .of_phase (txDone_phase_lt hf _)
  · have hnext : (s.txi + 1).toNat = s.txi.toNat + 1 := by bv_omega
    refine .of_waitLeft (by simp) ?_
    rcases hf with hf | hf <;> simp only [waitLeft, startAct_fsm, hf] <;> omega
  · rcases hf with hf | hf <;> exact .of_missing (by simp [hf]) (by simp [Helps, hf, he, hr])

theorem drnStep_advances (hf : s.fsm = .drn) : Advances s i (drnStep s i (startAct s)).st := by
  unfold drnStep
  split_ifs with hr hop
  · exact .of_missing (by simp [hf]) (by simp [Helps, hf, hr])
  · exact .of_phase ((complete_phase_le s _ _ _ _).trans_lt (by simp [hf, phase]))
  · exact .of_phase (by simp [hf, phase])

theorem rdxFull_phase_le (s : State) (a : Act) : phase (rdxFull s a).st.fsm ≤ 2 := by
  unfold rdxFull
  split_ifs
  · exact (complete_phase_le s _ _ _ a).trans (by omega)
  · exact (raiseError_phase_le s _ _ a).trans (by omega)
  · simp [phase]

/-- Whatever else a waiting read stores, its deadline counts a tick (R164). -/
theorem countDeadline_advances (hf : s.fsm = .rdx) (hd : s.dlcnt ≠ 0#32) {u : State} (hfu : u.fsm = .rdx)
    (hdu : u.dlcnt = s.dlcnt) : Advances s i (countDeadline s i u) := by
  rw [countDeadline_eq hdu]
  by_cases ht : i.tick = true
  · exact .of_waitLeft (by simp [hfu, hf]) (by simpa [waitLeft, hfu, hf, ht] using toNat_pred_lt hd)
  · exact .inr ⟨by simp [hfu, hf], by simp [waitLeft, hfu, hf, ht], by simp [Helps, hf, ht]⟩

theorem rdxStep_advances (hf : s.fsm = .rdx) {b : Act} (h : rdxStep s i (startAct s) = .ok b) : Advances s i b.st := by
  have ends {k : Fsm} (hk : phase k ≤ 2) : phase k < phase s.fsm := by rw [hf]; exact Nat.lt_succ_of_le hk
  unfold rdxStep at h
  split at h
  · cases h; exact .of_phase (ends (rdxFull_phase_le s _))
  split at h
  · cases h; exact .of_phase (ends ((raiseError_phase_le s _ _ _).trans (by omega)))
  rename_i hd
  split at h
  · cases h; exact .of_phase (ends ((raiseError_phase_le s _ _ _).trans (by omega)))
  · cases h
    refine .of_phase (ends (le_trans ?_ one_le_two))
    split_ifs <;> exact complete_phase_le s _ _ _ _
  · split at h
    · cases h; exact countDeadline_advances hf hd (by simpa using hf) (by simp)
    · cases h
  · cases h; exact countDeadline_advances hf hd (by simpa using hf) (by simp)

theorem decStep_advances (hf : s.fsm = .dec) {b : Act} (h : decStep s (startAct s) = .ok b) : Advances s i b.st := by
  refine .of_phase (lt_of_le_of_lt (b := 1) ?_ (by simp [hf, phase]))
  unfold decStep at h
  split at h <;> split at h <;> cases h
  · exact decodeInto_phase_le s _ _
  · split_ifs
    · exact complete_phase_le s _ _ _ _
    · exact decodeInto_phase_le s _ _

theorem settleStep_advances (hf : s.fsm = .settle) : Advances s i (settleStep s i (startAct s)).st := by
  unfold settleStep
  split_ifs with h0 ht
  · exact .of_phase (by simp [hf, phase])
  · exact .of_waitLeft (by simp) (by simpa [waitLeft, hf] using toNat_pred_lt h0)
  · exact .of_missing (by simp [hf]) (by simp [Helps, hf, ht])

theorem coolStep_advances (hf : s.fsm = .cool) : Advances s i (coolStep s i (startAct s)).st := by
  unfold coolStep
  split_ifs with h0 ht
  · exact .of_phase (by simp [hf, phase])
  · exact .of_waitLeft (by simp) (by simpa [waitLeft, hf] using toNat_pred_lt h0)
  · exact .of_missing (by simp [hf]) (by simp [Helps, hf, ht])

theorem fwdStep_advances (hf : s.fsm = .fwd) : Advances s i (fwdStep i (startAct s)).st := by
  unfold fwdStep
  split_ifs with hfail hok
  · exact .of_phase (by simp [hf, phase])
  · exact .of_phase (by simp [hf, phase])
  · exact .of_missing (by simp [hf]) (by simp [Helps, hf, hfail, hok])

/-- In `WAITP` the ticker is on, so a tick counts `PTMR` down or fires, and then the next step begins a sub-cycle (R252). -/
theorem waitpStep_advances (h : ControlInv s) (hf : s.fsm = .waitp) (hop : s.op = .run) :
    Advances s s.input (waitpStep s (startAct s)).st := by
  have hon : s.tken = true := h.tken_iff.2 ⟨hop, by simp [hf], by simp [hf]⟩
  have hpos := (h.ptmr_range hon).1
  unfold waitpStep
  split_ifs with hp
  · exact .of_phase (by simp [hf, phase])
  have hleft : waitLeft s = s.ptmr.toNat := by simp [waitLeft, hf, hp]
  by_cases ht : s.input.tick = true
  · refine .of_waitLeft (by simp) ?_
    have hcount := toNat_pred_lt (x := s.ptmr) (by bv_omega)
    have hticked : waitLeft (ticked s) = if s.ptmr.toNat ≤ 1 then 0 else (s.ptmr - 1).toNat := by
      rw [ticked_eq]
      by_cases hlast : s.ptmr.toNat ≤ 1 <;> simp [waitLeft, hf, hp, hon, ht, hlast]
    rw [hticked, hleft]
    split_ifs <;> omega
  · exact .inr ⟨by simp, by simp [waitLeft, hf, hp, tickerFires, ht], by simp [Helps, hf, ht]⟩

/-! ### Every step advances -/

/-- Every step of the state machine in a state that is not at rest advances. -/
theorem fsmStep_advances {b : Act} (h : Inv s) (hrest : phase s.fsm ≠ 0)
    (hb : fsmStep s s.input (startAct s) = .ok b) : Advances s s.input b.st := by
  rw [fsmStep, if_pos h.control.pair] at hb
  cases hf : s.fsm with
  | idle | exited | live => simp [hf, phase] at hrest
  | txs =>
    rw [hf] at hb
    exact txStep_advances (.inl hf) (Nat.lt_succ_of_le (h.control.txs_txi hf)) (by decide) hb
  | txr =>
    rw [hf] at hb
    exact txStep_advances (.inr hf) (Nat.lt_succ_of_le (h.control.txr_txi hf)) (by decide) hb
  | drn => rw [hf] at hb; cases hb; exact drnStep_advances hf
  | rdx => rw [hf] at hb; exact rdxStep_advances hf hb
  | dec => rw [hf] at hb; exact decStep_advances hf hb
  | settle => rw [hf] at hb; cases hb; exact settleStep_advances hf
  | waitp =>
    rw [hf] at hb; cases hb
    exact waitpStep_advances h.control hf (by simpa [hf, legalPair] using h.control.pair)
  | fwd => rw [hf] at hb; cases hb; exact fwdStep_advances hf
  | cool => rw [hf] at hb; cases hb; exact coolStep_advances hf

/-- So does every step but a reset and an accepted `STOP`: outside `IDLE` the host writes at most `IE`. -/
theorem step_advances (h : Inv s) (hrest : phase s.fsm ≠ 0) (hr : s.input.rst = false)
    (hs : ¬ (s.op = .run ∧ HostWritesWord s 0x00 0x00000009)) (ht : step s = .next t) : Advances s s.input t := by
  obtain ⟨hstep, hp⟩ := step_clock hr hs
  obtain ⟨a, ha, rfl⟩ := clockStep_next (hstep.symm.trans ht)
  obtain ⟨ie, hst⟩ := hp.busy_st (fun hf => hrest (by rw [hf]; rfl)) a
  rw [Act.finish, hst]
  exact fsmStep_advances h hrest ha

/-! ### A fair run comes to rest (R283) -/

section
variable {I : Nat → Inputs} {S : Nat → State}

/-- Under `NO_STOP` no step of the run sees the host write `STOP`. -/
theorem not_hostWritesWord_stop (h : NoStop I) (s : State) (k : Nat) :
    ¬ HostWritesWord (s.present (I k)) 0x00 0x00000009 := by
  rintro ⟨-, hw, hidx, hdata⟩
  rw [State.present_input] at hw hidx hdata
  exact h k (by rw [hostCommand, if_pos ⟨hw, hidx⟩, hdata]; rfl)

variable (htick : FairTick I) (htx : FairTx I S) (hgap : FairRxGap I) (hsink : FairSink I S)
include htick htx hgap hsink

/-- A run stays in no state for ever without the input that the state waits for. -/
theorem exists_helps {k : Nat} {f : Fsm} (hstay : ∀ j, k ≤ j → (S j).fsm = f) : ∃ j, k ≤ j ∧ Helps (I j) f := by
  cases f with
  | txs | txr => exact htx k fun j hj => by simp [txValid, hstay j hj]
  | drn => exact hgap k
  | rdx | settle | waitp | cool => exact htick k
  | fwd => exact hsink k hstay
  | idle | dec | live | exited => exact ⟨k, le_refl k, trivial⟩

/-- A run that advances while it is not at rest comes to rest: from a state with the least left to do it could only wait,
and fairness ends the wait. -/
theorem exists_phase_eq_zero (hadv : ∀ k, phase (S k).fsm ≠ 0 → Advances (S k) (I k) (S (k + 1))) :
    ∃ k, phase (S k).fsm = 0 := by
  by_contra! hnone
  let k := Function.argmin fun j => workLeft (S j)
  have hmin (j : Nat) : ¬ workLeft (S j) < workLeft (S k) := Function.not_lt_argmin (fun j => workLeft (S j)) j
  have hwait (n : Nat) : (S (k + n)).fsm = (S k).fsm ∧ waitLeft (S (k + n)) = waitLeft (S k) := by
    induction n with
    | zero => exact ⟨rfl, rfl⟩
    | succ n ih =>
      obtain ⟨hf, hw⟩ := ih
      rcases hadv (k + n) (hnone _) with hlt | ⟨hf', hw', -⟩
      · exact absurd (by simpa only [workLeft, hf, hw] using hlt) (hmin (k + n + 1))
      · exact ⟨hf'.trans hf, hw'.trans hw⟩
  have hsame (j : Nat) (hj : k ≤ j) : (S j).fsm = (S k).fsm ∧ waitLeft (S j) = waitLeft (S k) := by
    simpa [hj] using hwait (j - k)
  obtain ⟨j, hj, hhelp⟩ := exists_helps htick htx hgap hsink fun j hj => (hsame j hj).1
  obtain ⟨hf, hw⟩ := hsame j hj
  rcases hadv j (hnone j) with hlt | ⟨-, -, hmiss⟩
  · exact hmin (j + 1) (by simpa only [workLeft, hf, hw] using hlt)
  · exact hmiss (hf ▸ hhelp)

end

/-! ### The loop goes on (R210) -/

/-- `RUN` is in progress and its start command is sent. -/
def InLoop (s : State) : Prop := s.op = .run ∧ s.fsm ≠ .txs

theorem complete_inLoop {a : Act} (hop : s.op = .run) (ha : a.st.op = .run) (k : Kind) (e : ErrCode) (c : Byte) :
    InLoop (complete s k e c a).st := by
  cases k <;> simp [InLoop, complete, hop, ha]

theorem raiseError_inLoop {a : Act} (hop : s.op = .run) (ha : a.st.op = .run) (e : ErrCode) (c : Byte) :
    InLoop (raiseError s e c a).st :=
  complete_inLoop (a := report e c a) hop ha .error e c

theorem decodeInto_inLoop {a : Act} (hop : s.op = .run) (ha : a.st.op = .run) (p : List Byte) :
    InLoop (decodeInto s p a).st := by
  by_cases hp : p.length < 40
  · rw [decodeInto_short hp]
    exact raiseError_inLoop (a := ⟨{ a.st with rdvalid := false }, a.hw⟩) hop ha _ _
  · rw [decodeInto_full (by omega)]
    exact complete_inLoop (a := ⟨{ a.st with rd := reading s.cfg p, rdvalid := true }, a.hw⟩) hop ha _ _ _

/-- Past the start command no step of the state machine ends `RUN` (R201, R238). -/
theorem FsmEffect.inLoop {a b : Act} (hb : FsmEffect s i a b) (hs : InLoop s) (ha : InLoop a.st) : InLoop b.st := by
  obtain ⟨hop, hf⟩ := hs
  obtain ⟨haop, haf⟩ := ha
  cases hb with
  | startFailed hf' => exact absurd hf' hf
  | frameSent _ hop' | unstuffed _ hop' | decoded _ hop' => simp [hop] at hop'
  | completed => exact complete_inLoop hop haop _ _ _
  | raised => exact raiseError_inLoop hop haop _ _
  | cycleDecoded => exact decodeInto_inLoop (a := ⟨unstuffInto s a.st, a.hw⟩) hop haop _
  | _ => simp [InLoop, liveStep, report, haop, haf]

/-- Nor does the host's part, but by an accepted `STOP`. -/
theorem step_inLoop (h : Inv s) (hs : InLoop s) (hr : s.input.rst = false) (hstop : ¬ HostWritesWord s 0x00 0x00000009)
    (ht : step s = .next t) : InLoop t := by
  obtain ⟨hstep, hp⟩ := step_clock hr fun hn => hstop hn.2
  obtain ⟨a, ha, rfl⟩ := clockStep_next (hstep.symm.trans ht)
  have hidle : s.fsm ≠ .idle := fun hf => by simpa [hs.1] using h.control.op_none.2 (.inl hf)
  obtain ⟨ie, hst⟩ := hp.busy_st hidle a
  rw [Act.finish, hst]
  exact (fsmStep_effect ha).inLoop hs (by simpa [InLoop] using hs)

/-! ### What a reset leaves (R270) -/

/-- After a reset every word of the register space reads 0 but `DEADLINE`. -/
theorem regRead_resetWith (cfg : Config.Params) (script : List Inputs) (draws : Nat) (idx : BitVec 8) :
    regRead (.resetWith cfg script draws) idx = if idx = 0x04 then cfg.tDeadline else 0 := by
  by_cases h4 : idx = 0x04
  · subst h4; rfl
  have hn : idx.toNat ≠ 0x04 := fun h => h4 (BitVec.eq_of_toNat_eq h)
  have hstatus : statusWord (.resetWith cfg script draws) = 0 := by
    simp [statusWord, State.resetWith, busy, bit, Fsm.code, Operation.code]
  have hresult : resultWord ⟨.none, .none, 0#8⟩ = 0#32 := by decide
  have herrinfo : errinfoWord ⟨.none, 0#8⟩ = 0#32 := by decide
  have hrd (k : Nat) : #v[0#32, 0#32, 0#32, 0#32, 0#32, 0#32, 0#32, 0#32, 0#32, 0#32][k]?.getD 0#32 = 0#32 := by
    rcases Nat.lt_or_ge k 10 with hk | hk
    · interval_cases k <;> rfl
    · simp [hk]
  rw [if_neg h4]
  simp only [regRead, hstatus, if_neg hn]
  simp only [State.resetWith, hresult, herrinfo, hrd, Memory.read_nil, BitVec.ofNat_eq_ofNat, BitVec.setWidth_zero,
    ite_self]

end Sys2Proof.Machine

open Sys2Proof.Machine Sys2Proof.Safety in
/-- Settles O50, by contradiction: while the operation does not end it never becomes `RUN`, so the sink is never waited for
and the run comes to rest, but not in `LIVE`. -/
theorem oneShotOperationsEnd : Obligations.OneShotOperationsEnd := by
  intro I S hrun hinv htick htx hgap hrst h0
  by_contra! hbusy
  have hop (k : Nat) : (S k).op ≠ .run := by
    induction k with
    | zero => exact h0
    | succ k ih =>
      rcases (oneOperationAtATime ((S k).present (I k)) _ (decide_eq_true (hbusy k)) (hrst k) (hrun k)).1 with
        hkeep | hend
      · exact hkeep ▸ ih
      · simp [hend]
  have hnot (f : Fsm) (hf : ∀ o, legalPair f o = decide (o = .run)) (k : Nat) : (S k).fsm ≠ f := fun hk =>
    hop k (by simpa [hk, hf] using (hrun.inv hinv k).control.pair)
  have hsink : FairSink I S := fun k hk => absurd (hk k (le_refl k)) (hnot .fwd (fun _ => rfl) k)
  obtain ⟨k, hk⟩ := exists_phase_eq_zero htick htx hgap hsink fun k hk =>
    step_advances ((hrun.inv hinv k).present (I k)) hk (hrst k) (fun hs => hop k hs.1) (hrun k)
  rcases phase_eq_zero.1 hk with hf | hf | hf
  · exact (hbusy k).1 hf
  · exact (hbusy k).2 hf
  · exact hnot .live (fun _ => rfl) k hf

open Sys2Proof.Machine Sys2Proof.Safety in
/-- Settles O51: past the start command `RUN` goes on, so a run that comes to rest does so in `LIVE`. -/
theorem everyLoopTurnReachesLive : Obligations.EveryLoopTurnReachesLive := by
  intro I S hrun hinv htick htx hgap hsink hrst hstop hop hf
  have hnext (k : Nat) := (hrun.inv hinv k).present (I k)
  have hloop (k : Nat) : InLoop (S k) := by
    induction k with
    | zero => exact ⟨hop, hf⟩
    | succ k ih => exact step_inLoop (hnext k) ih (hrst k) (not_hostWritesWord_stop hstop _ k) (hrun k)
  obtain ⟨k, hk⟩ := exists_phase_eq_zero htick htx hgap hsink fun k hk =>
    step_advances (hnext k) hk (hrst k) (fun hs => not_hostWritesWord_stop hstop _ k hs.2) (hrun k)
  have hbusy : ¬ ((S k).fsm = .idle ∨ (S k).fsm = .exited) := fun h => by
    simpa [(hloop k).1] using (hrun.inv hinv k).control.op_none.2 h
  exact ⟨k, (or_assoc.2 (phase_eq_zero.1 hk)).resolve_left hbusy⟩

open Sys2Proof.Machine Sys2Proof.Safety in
/-- Settles O1: every element by the reset state's definition, the registers by what they read of it. -/
theorem resetClearsEveryElement : Obligations.ResetClearsEveryElement := by
  intro s hr
  have hrd (i : Fin 10) : (resetAct s).rd[i] = 0 := by fin_cases i <;> rfl
  have hsnk : snkData (resetAct s) = 0 := by simp [snkData, resetAct, State.resetWith]
  have hirq : irq (resetAct s) = false := by simp [irq, resetAct, State.resetWith]
  exact ⟨_, step_reset hr, rfl, rfl, rfl, rfl, fun _ => rfl, rfl, fun _ => rfl, rfl, hrd, rfl, rfl, rfl, rfl, rfl, rfl,
    rfl, rfl, rfl, rfl, rfl, rfl, rfl, rfl, regRead_resetWith _ _ _,
    fun _ => ⟨rfl, rfl, rfl, rfl, rfl, rfl, hirq, hsnk, rfl, rfl⟩⟩

open Sys2Proof.Machine in
/-- Settles O2: the reset state is one of those a reset leaves. -/
theorem resetStateMeetsTheInvariants : Obligations.ResetStateMeetsTheInvariants := resetWith_inv _ _ _
